-- ==== Sys2Proof/Word.lean ====
section
/-! DEFINITION. The word types of the framer (R8, R70): buffer elements and registers of 16 bits, command words of 32. -/

namespace Sys2Proof

/-- One brightness value, one serial word, one 16-bit register (R21, R25, R26). -/
abbrev Word := BitVec 16

/-- One command word, format C (R70). -/
abbrev Cmd := BitVec 32

end Sys2Proof
end

