-- ==== Sys2Proof/Config.lean ====
section
/-! DEFINITION. What one instance of the framer fixes (R5): the constants, the parameter record, the free values. -/

namespace Sys2Proof

/-- The four Chebyshev coefficients of the GammaTable (R34, R113), over a number type `K`: the machine's table is
rational (R120), the solver's exact one real. -/
structure Coef (K : Type) where
  c0 : K
  c1 : K
  c2 : K
  c3 : K
deriving DecidableEq, Repr

namespace Config

/-- `MAX`, the largest brightness value (R5). -/
abbrev maxBrightness : Nat := 65535

/-- `WORD_BITS`, bits per serial word (R5). -/
abbrev wordBits : Nat := 16

/-- `CHAIN_ALIGN`: the LED words of a frame are padded to a multiple of this many words (R5). -/
abbrev chainAlign : Nat := 16

/-- `LC_FRAME`, the latch clocks of the word that ends a frame (R5). -/
abbrev lcFrame : Nat := 3

/-- `LC_CFG_OPEN`, the latch clocks of the first word of a configuration write (R5). -/
abbrev lcCfgOpen : Nat := 15

/-- `LC_CFG_COMMIT`, the latch clocks of the second word of a configuration write (R5). -/
abbrev lcCfgCommit : Nat := 11

/-- `FRAME_W`, the width of the frame counter (R5). -/
abbrev frameWidth : Nat := 32

/-- `GAMMA`, the exponent of the corrected curve (R5, R117); only the solver's specification uses it. -/
def gamma : Rat := 28 / 10

/-- `GA`, lower end of the fitted domain (R5). -/
abbrev gammaDomainLow : Rat := 0

/-- `GB`, upper end of the fitted domain (R5). -/
abbrev gammaDomainHigh : Rat := 1

/-- The parameters whose value R5 leaves OPEN, and the two it keeps as configuration fields (`LC_DATA`, `COEF`).
Fixed for one instance: `State` carries the record and no step writes it (log entry 1). -/
structure Params where
  /-- `N`, the number of LEDs. -/
  n : Nat
  /-- `GAMMA_EN`: the correction pipeline uses the gamma path. -/
  gammaEn : Bool
  /-- `CFG_EN_MASK`: the enable bit of the configuration word. -/
  enMask : Word
  /-- `CFG_RESET`. -/
  cfgReset : Word
  /-- `BRIGHT_RESET`. -/
  brightReset : Word
  /-- `LC_DATA`, the latch clocks of padding and LED words (R156); the spec's decided value is 0. -/
  lcData : Nat
  /-- `COEF[0..3]`, the GammaTable as four rationals (R120 a). -/
  coef : Coef Rat
deriving DecidableEq, Repr

/-- The constraints R5 puts on the parameters: `1 <= N <= 4096`, exactly one enable bit, `CFG_RESET` with that bit
clear. -/
def Params.wf (p : Params) : Bool :=
  decide (1 ≤ p.n) && decide (p.n ≤ 4096)
    && (List.range 16).any (fun i => p.enMask == 1#16 <<< i)
    && (p.cfgReset &&& p.enMask == 0#16)

/-- The reference GammaTable (R121). -/
def referenceCoef : Coef Rat := ⟨32252 / 100000, 47528 / 100000, 17826 / 100000, 2447 / 100000⟩

/-- The instance `State.reset` describes: R6's illustration values, with `N = 3` and the linear path.
DESIGN CHOICE, unsafe for a claim about `State.reset` alone (log entry 1). -/
def illustration : Params :=
  { n := 3, gammaEn := false, enMask := 0x0001#16, cfgReset := 0x0120#16, brightReset := 0xFFFF#16,
    lcData := 0, coef := referenceCoef }

/-- The content of `DRAW[i]` after reset: any value (R37, R211). A free value (log entry 4). -/
opaque drawReset : Nat → Word

/-- The content of `TX[i]` after reset: any value (R37, R211). A free value (log entry 4). -/
opaque txReset : Nat → Word

end Config

end Sys2Proof
end

