-- ==== Sys2Proof/Syntax.lean ====
section
/-! DEFINITION. The ten commands of the opcode table (R75), one constructor per row. -/

namespace Sys2Proof

/-- A host command (R75). An index and a latch count are integers, as R71 has them; `WellFormed` bounds them. -/
inductive Instr where
  /-- DRAW_WR `idx`, `val` (R131). -/
  | drawWr (idx : Nat) (val : Word)
  /-- DRAW_RD `idx` (R130). -/
  | drawRd (idx : Nat)
  /-- SET_BRIGHT `val` (R133). -/
  | setBright (val : Word)
  /-- CLEAR (R134). -/
  | clear
  /-- CORRECT (R138). -/
  | correct
  /-- WRITE_FRAME (R158). -/
  | writeFrame
  /-- PUT_WORD `k`, `val` (R150). -/
  | putWord (k : Nat) (val : Word)
  /-- WRITE_CONFIG (R160). -/
  | writeConfig
  /-- START (R162). -/
  | start
  /-- STOP (R163). -/
  | stop
deriving DecidableEq, Repr

end Sys2Proof
end

