-- ==== Sys2Proof/WellFormed.lean ====
section
/-! DEFINITION. Which commands format C can carry (R70, R71): a 12-bit index, a 5-bit latch count. -/

namespace Sys2Proof

/-- The operands fit their fields (R71): `idx` in `0..4095`, `k` in `0..31`. -/
def Instr.wellFormed : Instr → Bool
  | .drawWr idx _ => decide (idx < 4096)
  | .drawRd idx => decide (idx < 4096)
  | .setBright _ => true
  | .clear => true
  | .correct => true
  | .writeFrame => true
  | .putWord k _ => decide (k < 32)
  | .writeConfig => true
  | .start => true
  | .stop => true

end Sys2Proof
end

