-- ==== Sys2Proof/Decode.lean ====
section
/-! DEFINITION. Format C (R70), operand assembly (R71), the opcode map (R75), the decoder (R76), reserved words (R86),
the encoder, and the textual forms of R92 and R93. -/

namespace Sys2Proof

/-- `op`, bits 31:28 of a command word (R70). -/
def opField (c : Cmd) : Nat := (c >>> 28).toNat

/-- `a`, bits 27:16 (R70); also the index operand (R71). -/
def aField (c : Cmd) : Nat := (c >>> 16).toNat % 4096

/-- `d`, bits 15:0 (R70); also the value operand (R71). -/
def dField (c : Cmd) : Word := c.setWidth 16

/-- `k`, bits 20:16 (R71). -/
def kField (c : Cmd) : Nat := (c >>> 16).toNat % 32

/-- Why a word is reserved (R86), one name for each item of its list. -/
inductive Reserved where
  /-- `op` is one of 0x0, 0xB to 0xF. -/
  | op
  /-- DRAW_RD's `op` with `d` not zero. -/
  | drawRdData
  /-- SET_BRIGHT's `op` with `a` not zero. -/
  | setBrightIndex
  /-- A command without operands with `a` or `d` not zero. -/
  | operands
  /-- PUT_WORD's `op` with bits 27:21 not zero. -/
  | putWordHigh
deriving DecidableEq, Repr

/-- One row of the opcode map (R75): `c` is this command exactly when `c &&& mask = mtch`; `build` assembles its
operands (R71). -/
structure Row where
  mtch : Cmd
  mask : Cmd
  build : Cmd → Instr

/-- The opcode map (R75), in its order. -/
def opcodeRows : List Row :=
  [ ⟨0x10000000#32, 0xF0000000#32, fun c => .drawWr (aField c) (dField c)⟩,
    ⟨0x20000000#32, 0xF000FFFF#32, fun c => .drawRd (aField c)⟩,
    ⟨0x30000000#32, 0xFFFF0000#32, fun c => .setBright (dField c)⟩,
    ⟨0x40000000#32, 0xFFFFFFFF#32, fun _ => .clear⟩,
    ⟨0x50000000#32, 0xFFFFFFFF#32, fun _ => .correct⟩,
    ⟨0x60000000#32, 0xFFFFFFFF#32, fun _ => .writeFrame⟩,
    ⟨0x70000000#32, 0xFFE00000#32, fun c => .putWord (kField c) (dField c)⟩,
    ⟨0x80000000#32, 0xFFFFFFFF#32, fun _ => .writeConfig⟩,
    ⟨0x90000000#32, 0xFFFFFFFF#32, fun _ => .start⟩,
    ⟨0xA0000000#32, 0xFFFFFFFF#32, fun _ => .stop⟩ ]

/-- The row matches the word (R75). -/
def Row.hits (r : Row) (c : Cmd) : Bool := c &&& r.mask == r.mtch

/-- The item of R86's list a word without a row falls under. -/
def reservedWhy (c : Cmd) : Reserved :=
  match opField c with
  | 2 => .drawRdData
  | 3 => .setBrightIndex
  | 4 | 5 | 6 | 8 | 9 | 10 => .operands
  | 7 => .putWordHigh
  | _ => .op

/-- Decoding (R76): the row that matches gives the command; no row, and the word is reserved. Total on all words. -/
def decode (c : Cmd) : Except Reserved Instr :=
  match opcodeRows.find? (fun r => r.hits c) with
  | some r => .ok (r.build c)
  | none => .error (reservedWhy c)

/-- Format C from its three fields (R70). -/
def formatC (op a : Nat) (d : Word) : Cmd :=
  (BitVec.ofNat 4 op ++ BitVec.ofNat 12 a : BitVec 16) ++ d

/-- The word of a command, from the field columns of R71 and R75. -/
def encode : Instr → Cmd
  | .drawWr idx val => formatC 0x1 idx val
  | .drawRd idx => formatC 0x2 idx 0
  | .setBright val => formatC 0x3 0 val
  | .clear => formatC 0x4 0 0
  | .correct => formatC 0x5 0 0
  | .writeFrame => formatC 0x6 0 0
  | .putWord k val => formatC 0x7 k val
  | .writeConfig => formatC 0x8 0 0
  | .start => formatC 0x9 0 0
  | .stop => formatC 0xA 0 0

/-- The instruction in the low `nbits` bits of `w`, the bits above being 0. A command is one whole 32-bit value
without a byte order (R52, R87), so more than 32 bits is no command (log entry 14). -/
def decodeTableWord (nbits w : Nat) : Option Instr :=
  if nbits ≤ 32 then
    match decode (BitVec.ofNat 32 (w % 2 ^ nbits)) with
    | .ok i => some i
    | .error _ => none
  else none

/-- The mnemonic of a command (R75, R92). -/
def Instr.mnemonic : Instr → String
  | .drawWr _ _ => "DRAW_WR"
  | .drawRd _ => "DRAW_RD"
  | .setBright _ => "SET_BRIGHT"
  | .clear => "CLEAR"
  | .correct => "CORRECT"
  | .writeFrame => "WRITE_FRAME"
  | .putWord _ _ => "PUT_WORD"
  | .writeConfig => "WRITE_CONFIG"
  | .start => "START"
  | .stop => "STOP"

/-- The operands in the order of R75's operands column (R92). -/
def Instr.operands : Instr → List Nat
  | .drawWr idx val => [idx, val.toNat]
  | .drawRd idx => [idx]
  | .setBright val => [val.toNat]
  | .clear => []
  | .correct => []
  | .writeFrame => []
  | .putWord k val => [k, val.toNat]
  | .writeConfig => []
  | .start => []
  | .stop => []

/-- The written form of a command: its mnemonic and its operands, in decimal, separated by commas (R92). -/
def Instr.asm (i : Instr) : String :=
  match i.operands with
  | [] => i.mnemonic
  | xs => i.mnemonic ++ " " ++ String.intercalate ", " (xs.map toString)

/-- The pseudo-instruction FILL `v` on an instance of `n` LEDs: `n` commands DRAW_WR, index rising (R93). -/
def fill (n : Nat) (v : Word) : List Instr := (List.range n).map (fun i => .drawWr i v)

end Sys2Proof
end

