-- ==== Sys2Proof/Machine/State.lean ====
section
/-! DEFINITION. The state of the framer (R20), its outcomes, and the state right after reset (R37). -/

namespace Sys2Proof.Machine

/-- A frame buffer: its elements in index order, element `i` that of LED `i` (R21, R22). Dense, so equal buffers are
equal lists; `Memory.wf` says that every index `0..N-1` and no other is there (log entry 7). -/
abbrev Memory := List Word

/-- The output lines (R29, R30). -/
inductive Line where
  | clk
  | dat
  | lat
  | gck
deriving DecidableEq, Repr

/-- One event of the wire trace: a line and the level written to it (R33). -/
structure Event where
  line : Line
  level : Bool
deriving DecidableEq, Repr

/-- The phases of the sequencer cursor (R28). -/
inductive Phase where
  | idle
  | pad
  | data
  | endWord
  | cfgOpen
  | cfgWord
  | raw
deriving DecidableEq, Repr

/-- The sequencer cursor `SEQ = (phase, w, t)`: the next bit to send (R28). -/
structure Cursor where
  phase : Phase
  w : Nat
  t : Nat
deriving DecidableEq, Repr

/-- `(IDLE, 0, 0)` (R28). -/
def Cursor.idle : Cursor := ⟨.idle, 0, 0⟩

/-- Which of the two buffers (R23). -/
inductive Buffer where
  | draw
  | tx
deriving DecidableEq, Repr

/-- What follows a correction pass: CORRECT stops, WRITE_FRAME transmits (R35). -/
inductive AfterPass where
  | stop
  | transmit
deriving DecidableEq, Repr

/-- `HOSTOP`, the host command in progress (R35). A set of elements is the list of them in the order in which they will
be visited (log entry 11). -/
inductive HostOp where
  | none
  | clear (left : List (Buffer × Nat))
  | correct (left : List Nat) (after : AfterPass)
  | serial
  | between
deriving DecidableEq, Repr

/-- Everything the spec gives the framer (R20), the instance's parameters (R5), and what passes its ports
(R36, R72, R73). -/
structure State where
  /-- The instance (R5); no step writes it. -/
  par : Config.Params
  /-- `DRAW` (R21). -/
  draw : Memory
  /-- `TX` (R22). -/
  tx : Memory
  /-- `CFG` (R25). -/
  cfg : Word
  /-- `BRIGHT` (R26). -/
  bright : Word
  /-- `READY` (R27). -/
  ready : Bool
  /-- `CLK` (R30). -/
  clk : Bool
  /-- `DAT` (R30). -/
  dat : Bool
  /-- `LAT` (R30). -/
  lat : Bool
  /-- `GCK` (R29). -/
  gck : Bool
  /-- `FRAME` (R31). -/
  frame : BitVec Config.frameWidth
  /-- `FAULT` (R32): bit 0 `F_ILLEGAL`, bit 1 `F_INDEX`, bit 2 `F_COLLISION`. -/
  fault : BitVec 3
  /-- `SEQ` (R28). -/
  seq : Cursor
  /-- `HOSTOP` (R35). -/
  hostop : HostOp
  /-- `WIRE`, oldest event first (R33). -/
  wire : List Event
  /-- The response port: the words DRAW_RD has returned, oldest first (R72). The model's history field, as `WIRE` is. -/
  resp : List Word
  /-- Input: the command words the host will issue, next first (R36, R58). The model's field. -/
  cmds : List Cmd
  /-- Input: when the environment delivers TICKs (R36, R184). The head counts the host micro-steps that still pass
  before the next TICK, each later entry those between one TICK and the next. The model's field (log entry 2). -/
  ticks : List Nat
  /-- Input: the choices that fix the visiting orders of CLEAR and CORRECT (R36). A free value (log entry 3). -/
  order : List Nat
deriving DecidableEq, Repr

/-- Why a step stops with a fault. -/
inductive Fault where
  /-- A TICK was delivered while `HOSTOP = serial` (R187, R182). Raised by `tick`, alone or inside a serial command. The
  state is the one the TICK leaves: `F_COLLISION` set, no TRANSMIT, `FRAME` unchanged. From there the content of `WIRE` is
  unspecified, and R187 has a model stop the run as faulted. Safe. -/
  | collision (left : State)
deriving DecidableEq, Repr

/-- Why a step gives the input no meaning. The spec asks for none (R9). -/
inductive Refusal where
  /-- `exec` has no meaning for the command of this mnemonic. Raised by no arm: every row has its meaning. Safe. -/
  | notModelled (mnemonic : String)
deriving DecidableEq, Repr

/-- The state right after reset of the instance `p` (R37, R210): buffers with their free content, no input pending. -/
def State.resetWith (p : Config.Params) : State :=
  { par := p
    draw := (List.range p.n).map Config.drawReset
    tx := (List.range p.n).map Config.txReset
    cfg := p.cfgReset
    bright := p.brightReset
    ready := false
    clk := false
    dat := false
    lat := false
    gck := false
    frame := 0
    fault := 0
    seq := .idle
    hostop := .none
    wire := []
    resp := []
    cmds := []
    ticks := []
    order := [] }

/-- The machine right after reset (R37), for the instance `Config.illustration` (log entry 1). -/
def State.reset : State := .resetWith Config.illustration

end Sys2Proof.Machine
end

