-- ==== Sys2Proof/Machine/Flags.lean ====
section
/-! DEFINITION. The flags and their computation: the sticky FAULT bits (R32, R180 to R182), READY (R27), the EN bit of
CFG (R25). -/

namespace Sys2Proof.Machine

/-- The three faults of R182. -/
inductive FaultCode where
  | illegal
  | index
  | collision
deriving DecidableEq, Repr

/-- The `FAULT` bit of a fault (R182): 0, 1, 2. -/
def FaultCode.mask : FaultCode → BitVec 3
  | .illegal => 0b001#3
  | .index => 0b010#3
  | .collision => 0b100#3

/-- `raise F`: the bit of `F` is set, nothing else happens (R180); a set bit stays set (R181). -/
def raise (f : FaultCode) (s : State) : State := { s with fault := s.fault ||| f.mask }

/-- `READY <- v`, one indivisible write (R27, R55). -/
def State.setReady (s : State) (v : Bool) : State := { s with ready := v }

/-- `CFG` with the enable bit set (R162). -/
def cfgEnabled (p : Config.Params) (cfg : Word) : Word := cfg ||| p.enMask

/-- `CFG` with the enable bit cleared (R163). -/
def cfgDisabled (p : Config.Params) (cfg : Word) : Word := cfg &&& ~~~p.enMask

/-- The `EN` bit of a state (R25). -/
def State.enabled (s : State) : Bool := s.cfg &&& s.par.enMask != 0#16

end Sys2Proof.Machine
end

