-- ==== Sys2Proof/Machine/Ops.lean ====
section
/-! DEFINITION. The named operations over the state: sequencing, buffers (R50 to R54), registers, output lines (R30, R33),
ports, and the bookkeeping of the tick schedule (R184). Taking a fault is `raise` (Flags.lean); the tick is in
Context.lean. -/

namespace Sys2Proof.Machine

/-- The outcome of one step or of a part of one. -/
abbrev Result := Host.Outcome State Fault Refusal

/-- First `r`, then, from its next state, `f`; a fault or a refusal ends both. -/
def andThen (r : Result) (f : State → Result) : Result :=
  match r with
  | .next s => f s
  | .fault e => .fault e
  | .refused e => .refused e

/-- The canonical form of a buffer of `n` elements: index `0..n-1` present, no other (R21, R51). -/
def Memory.wf (n : Nat) (m : Memory) : Bool := m.length == n

/-- `m[i]`, one whole element (R54). Used with `i < N` only; the 0 past the end is never reached on a buffer in
canonical form. -/
def Memory.read (m : Memory) (i : Nat) : Word := m.getD i 0

/-- `m[i] <- v`, one whole element (R54). -/
def Memory.write (m : Memory) (i : Nat) (v : Word) : Memory := m.set i v

/-- `DRAW <- m`. -/
def State.setDraw (s : State) (m : Memory) : State := { s with draw := m }

/-- `TX <- m`. -/
def State.setTx (s : State) (m : Memory) : State := { s with tx := m }

/-- `CFG <- v` (R25). -/
def State.setCfg (s : State) (v : Word) : State := { s with cfg := v }

/-- `BRIGHT <- v` (R26). -/
def State.setBright (s : State) (v : Word) : State := { s with bright := v }

/-- `FRAME <- (FRAME + 1) mod 2^32` (R31, R192). -/
def State.countFrame (s : State) : State := { s with frame := s.frame + 1 }

/-- `SEQ <- c` (R28). -/
def State.setSeq (s : State) (c : Cursor) : State := { s with seq := c }

/-- `HOSTOP <- h` (R35). -/
def State.setHostOp (s : State) (h : HostOp) : State := { s with hostop := h }

/-- `v` on the response port (R72). -/
def State.respond (s : State) (v : Word) : State := { s with resp := s.resp ++ [v] }

/-- The commands still to be issued. -/
def State.setCmds (s : State) (cs : List Cmd) : State := { s with cmds := cs }

/-- The TICKs still to be delivered. -/
def State.setTicks (s : State) (ts : List Nat) : State := { s with ticks := ts }

/-- The visiting choices still to be made. -/
def State.setOrder (s : State) (cs : List Nat) : State := { s with order := cs }

/-- `pin(p, v)`: the line takes the level and the wire trace the event (R8, R33). -/
def State.drive (s : State) (e : Event) : State :=
  match e with
  | ⟨.clk, v⟩ => { s with clk := v, wire := s.wire ++ [e] }
  | ⟨.dat, v⟩ => { s with dat := v, wire := s.wire ++ [e] }
  | ⟨.lat, v⟩ => { s with lat := v, wire := s.wire ++ [e] }
  | ⟨.gck, v⟩ => { s with gck := v, wire := s.wire ++ [e] }

/-- A TICK is delivered before the next micro-step (R184). -/
def tickDue (s : State) : Bool :=
  match s.ticks with
  | 0 :: _ => true
  | _ => false

/-- The tick schedule after `m` micro-steps in which no TICK was delivered. -/
def elapse (m : Nat) (ts : List Nat) : List Nat :=
  match ts with
  | [] => []
  | k :: r => (k - m) :: r

/-- One micro-step has passed. -/
def State.countdown (s : State) : State := s.setTicks (elapse 1 s.ticks)

/-- No TICK is delivered before any of the next `m` micro-steps. -/
def State.quiet (s : State) (m : Nat) : Bool :=
  match s.ticks with
  | [] => true
  | k :: _ => decide (m ≤ k)

/-- The elements of `xs` in the visiting order the choices `cs` stand for (R134, R138: any order). Every order of `xs` is
`arrange cs xs` for some `cs`; no choice left means 0 (log entry 3). -/
def arrange {α : Type} (cs : List Nat) (xs : List α) : List α :=
  match xs with
  | [] => []
  | x :: rest =>
    let ys := arrange cs.tail rest
    ys.insertIdx (cs.headD 0 % (ys.length + 1)) x

end Sys2Proof.Machine
end

