-- ==== Sys2Proof/Machine/Wire.lean ====
section
/-! DEFINITION. What goes over the wire: one word (R88, R150 to R152), the plans of a frame (R89, R155, R156), of a
configuration write (R90, R160) and of a raw word, and the chip view of a trace (R33). -/

namespace Sys2Proof.Machine

/-- `1 <= k <= 16` and this is the `k`-th-from-last bit: the latch line is raised here (R150, R151, R152). -/
def latchRises (k t : Nat) : Bool := decide (1 ≤ k) && decide (k ≤ 16) && (t == 16 - k)

/-- The events of the bit sent at position `t` (R150). -/
def bitEvents (word : Word) (k t : Nat) : List Event :=
  [⟨.clk, false⟩] ++ (if latchRises k t then [⟨.lat, true⟩] else [])
    ++ [⟨.dat, word.getLsbD (15 - t)⟩, ⟨.clk, true⟩]

/-- The pin events of `put_word(word, k)`, in order (R150). -/
def wordEvents (word : Word) (k : Nat) : List Event :=
  (List.range Config.wordBits).flatMap (bitEvents word k) ++ [⟨.lat, false⟩, ⟨.clk, false⟩]

/-- The events of `put_word`, each with the cursor after it (R28): `phase`, `w` say which word this is, `nxt` is the
cursor of the next word or IDLE. The cursor moves on at each clock rising edge. -/
def wordSteps (phase : Phase) (w : Nat) (nxt : Cursor) (word : Word) (k : Nat) : List (Event × Cursor) :=
  (List.range Config.wordBits).flatMap (fun t =>
      (bitEvents word k t).map (fun e =>
        (e, if e = ⟨.clk, true⟩ then (if t = 15 then nxt else ⟨phase, w, t + 1⟩) else ⟨phase, w, t⟩)))
    ++ [(⟨.lat, false⟩, nxt), (⟨.clk, false⟩, nxt)]

/-- Where the value of a serial word comes from. -/
inductive WordSource where
  /-- The constant zero word (padding, end word, first configuration word). -/
  | zero
  /-- `TX[i]`. -/
  | led (i : Nat)
  /-- The live `CFG` (R160). -/
  | config
  /-- The operand of PUT_WORD. -/
  | given (word : Word)
deriving DecidableEq, Repr

/-- One `put_word` of a serial operation: its word, its `latch_clocks`, its place in the cursor's terms. -/
structure Slot where
  source : WordSource
  k : Nat
  phase : Phase
  w : Nat
deriving DecidableEq, Repr

/-- The value a slot sends, read when its word starts (R156, R160). -/
def Slot.value (sl : Slot) (s : State) : Word :=
  match sl.source with
  | .zero => 0#16
  | .led i => s.tx.read i
  | .config => s.cfg
  | .given word => word

/-- The cursor at the start of the next word of an operation; IDLE after its last word (R28). -/
def cursorOf (rest : List Slot) : Cursor :=
  match rest with
  | [] => .idle
  | sl :: _ => ⟨sl.phase, sl.w, 0⟩

/-- `P = (16 - N mod 16) mod 16` (R155). -/
def padCount (n : Nat) : Nat := (Config.chainAlign - n % Config.chainAlign) % Config.chainAlign

/-- The words of TRANSMIT (R156): padding, LED words from the highest index down, the end word. -/
def framePlan (p : Config.Params) : List Slot :=
  (List.range (padCount p.n)).map (fun j => ⟨.zero, p.lcData, .pad, j⟩)
    ++ (List.range p.n).reverse.map (fun i => ⟨.led i, p.lcData, .data, i⟩)
    ++ [⟨.zero, Config.lcFrame, .endWord, 0⟩]

/-- The two words of WRITE_CONFIG (R160). -/
def configPlan : List Slot :=
  [⟨.zero, Config.lcCfgOpen, .cfgOpen, 0⟩, ⟨.config, Config.lcCfgCommit, .cfgWord, 0⟩]

/-- The one word of PUT_WORD (R150). -/
def rawPlan (k : Nat) (word : Word) : List Slot := [⟨.given word, k, .raw, 0⟩]

/-- One pin event of a serial operation, with its cursor. -/
def sendPin (e : Event × Cursor) (s : State) : State := (s.drive e.1).setSeq e.2

/-- Pin events in a row, undivided (inside TICK). -/
def sendPins (es : List (Event × Cursor)) (s : State) : State :=
  match es with
  | [] => s
  | e :: rest => sendPins rest (sendPin e s)

/-- The pin events of a slot whose operation goes on with `rest`, its value read from `s`. -/
def slotSteps (sl : Slot) (rest : List Slot) (s : State) : List (Event × Cursor) :=
  wordSteps sl.phase sl.w (cursorOf rest) (sl.value s) sl.k

/-- Words in a row, undivided (inside TICK). -/
def sendSlots (sls : List Slot) (s : State) : State :=
  match sls with
  | [] => s
  | sl :: rest => sendSlots rest (sendPins (slotSteps sl rest s) s)

/-- TRANSMIT, undivided (R156): the frame, then `READY <- 0` (R159). -/
def transmit (s : State) : State := (sendSlots (framePlan s.par) s).setReady false

/-- The levels of the four output lines. -/
structure Levels where
  clk : Bool
  dat : Bool
  lat : Bool
  gck : Bool
deriving DecidableEq, Repr

/-- The levels of a state. -/
def State.levels (s : State) : Levels := ⟨s.clk, s.dat, s.lat, s.gck⟩

/-- The levels after one event. -/
def Levels.after (l : Levels) (e : Event) : Levels :=
  match e with
  | ⟨.clk, v⟩ => { l with clk := v }
  | ⟨.dat, v⟩ => { l with dat := v }
  | ⟨.lat, v⟩ => { l with lat := v }
  | ⟨.gck, v⟩ => { l with gck := v }

/-- The levels after a trace (R33: replaying the events). -/
def replay (l : Levels) (es : List Event) : Levels :=
  match es with
  | [] => l
  | e :: rest => replay (l.after e) rest

/-- What a receiver can know of a trace (R33). -/
inductive ChipEvent where
  /-- A clock rising edge and the levels of the data and latch lines at it. -/
  | sample (d l : Bool)
  /-- The latch line falls. -/
  | latchFall
  /-- The grayscale clock is supplied or withheld. -/
  | clockSupply (v : Bool)
deriving DecidableEq, Repr

/-- What one event is to the chip, from the levels before it (R33). -/
def chipEvents (l : Levels) (e : Event) : List ChipEvent :=
  match e with
  | ⟨.clk, true⟩ => if l.clk then [] else [.sample l.dat l.lat]
  | ⟨.clk, false⟩ => []
  | ⟨.dat, _⟩ => []
  | ⟨.lat, true⟩ => []
  | ⟨.lat, false⟩ => if l.lat then [.latchFall] else []
  | ⟨.gck, v⟩ => if l.gck = v then [] else [.clockSupply v]

/-- The chip view of a trace (R33). -/
def chipView (l : Levels) (es : List Event) : List ChipEvent :=
  match es with
  | [] => []
  | e :: rest => chipEvents l e ++ chipView (l.after e) rest

/-- The wire words of a frame of buffer `tx`, as the table of R89 lists them: each word with its `latch_clocks`. -/
def frameWords (p : Config.Params) (tx : Memory) : List (Word × Nat) :=
  List.replicate (padCount p.n) (0#16, p.lcData) ++ tx.reverse.map (fun v => (v, p.lcData))
    ++ [(0#16, Config.lcFrame)]

/-- The wire words of a configuration write (R90). -/
def configWords (cfg : Word) : List (Word × Nat) := [(0#16, Config.lcCfgOpen), (cfg, Config.lcCfgCommit)]

/-- The pin events of wire words in a row. -/
def wordsEvents (ws : List (Word × Nat)) : List Event := ws.flatMap (fun w => wordEvents w.1 w.2)

end Sys2Proof.Machine
end

