-- ==== Sys2Proof/Machine/Context.lean ====
section
/-! DEFINITION. The two contexts (R7, R56, R57, R186): TICK, its delivery between micro-steps, the micro-steps of the
host, and serial operations in the host context. -/

namespace Sys2Proof.Machine

/-- TICK (R183): a collision if the host is driving the lines (R187), else TRANSMIT and count the frame. Indivisible. -/
def tick (s : State) : Result :=
  if s.hostop = .serial then .fault (.collision (raise .collision s)) else .next (transmit s).countFrame

/-- The TICKs at the head of the schedule `ts` that are due now, one after the other (R184, R186, R189). -/
def serveTicks (ts : List Nat) (s : State) : Result :=
  match ts with
  | 0 :: rest => andThen (tick (s.setTicks rest)) (serveTicks rest)
  | _ => .next s

/-- One micro-step `f` of the host (R8, R57): the due TICKs first, then `f`, whole. -/
def micro (f : State → State) (s : State) : Result :=
  andThen (serveTicks s.ticks s) (fun t => .next (f t).countdown)

/-- One pin micro-step of a host command; `h` is `HOSTOP` after it (R166). -/
def hostPin (h : HostOp) (e : Event × Cursor) (s : State) : Result := micro (fun t => (sendPin e t).setHostOp h) s

/-- Pin micro-steps in a row; `HOSTOP` is `serial` between them and `h` after the last (R166). -/
def hostPins (h : HostOp) (es : List (Event × Cursor)) (s : State) : Result :=
  match es with
  | [] => .next s
  | e :: rest => andThen (hostPin (if rest.isEmpty then h else .serial) e s) (hostPins h rest)

/-- A serial operation in the host context: `HOSTOP` is `serial` from its first pin event to its last, the gaps between
words included, and `h` after it (R166). -/
def hostSlots (h : HostOp) (sls : List Slot) (s : State) : Result :=
  match sls with
  | [] => .next s
  | sl :: rest =>
    andThen (hostPins (if rest.isEmpty then h else .serial) (slotSteps sl rest s) s) (hostSlots h rest)

/-- WRITE_CONFIG's two words, `HOSTOP` being `h` after them (R160). -/
def writeConfig (h : HostOp) (s : State) : Result := hostSlots h configPlan s

end Sys2Proof.Machine
end

