-- ==== Sys2Proof/Machine/Arith.lean ====
section
/-! DEFINITION. The saturating primitives (R100 to R104). Operands and results are brightness values `0..MAX`;
intermediate results are mathematical integers. -/

namespace Sys2Proof.Machine

/-- `sat_add(a, b) = min(a + b, MAX)` (R101). -/
def satAdd (a b : Word) : Word := BitVec.ofNat 16 (min (a.toNat + b.toNat) Config.maxBrightness)

/-- `sat_sub(a, b) = max(a - b, 0)` (R102). -/
def satSub (a b : Word) : Word := BitVec.ofNat 16 (max ((a.toNat : Int) - b.toNat) 0).toNat

/-- `sat_offset(value, delta) = clamp(value + delta, 0, MAX)`, for every integer `delta` (R103). -/
def satOffset (value : Word) (delta : Int) : Word :=
  BitVec.ofNat 16 (min (max ((value.toNat : Int) + delta) 0) Config.maxBrightness).toNat

/-- `sat_mul(a, b) = min(a * b, MAX)` (R104). -/
def satMul (a b : Word) : Word := BitVec.ofNat 16 (min (a.toNat * b.toNat) Config.maxBrightness)

end Sys2Proof.Machine
end

