-- ==== Sys2Proof/Machine/Gamma.lean ====
section
/-! DEFINITION. The gamma coefficient solver (R110 to R113), the evaluator (R115), the clamp (R116), the framer's gamma
stage (R117 to R119) and the pixel function (R135, R136). Solver and evaluator are written over any number type: the
machine evaluates over the rationals (R120 b), the solver's exact meaning is over the reals (R110). -/

namespace Sys2Proof.Machine

/-- The four nodes `u_1 .. u_4` (R110), or four values taken at them. -/
structure Four (K : Type) where
  v1 : K
  v2 : K
  v3 : K
  v4 : K
deriving DecidableEq, Repr

/-- The nodes are the Chebyshev nodes `u_i = -cos((2i-1)π/8)`, `i = 1..4` (R110). -/
def IsChebyshevNodes (u : Four ℝ) : Prop :=
  u.v1 = -Real.cos (1 * Real.pi / 8) ∧ u.v2 = -Real.cos (3 * Real.pi / 8) ∧
    u.v3 = -Real.cos (5 * Real.pi / 8) ∧ u.v4 = -Real.cos (7 * Real.pi / 8)

/-- The function applied at each of the four. -/
def Four.map {K L : Type} (g : K → L) (z : Four K) : Four L := ⟨g z.v1, g z.v2, g z.v3, g z.v4⟩

/-- The product taken node by node (R113). -/
def Four.times {K : Type} [Mul K] (y z : Four K) : Four K :=
  ⟨y.v1 * z.v1, y.v2 * z.v2, y.v3 * z.v3, y.v4 * z.v4⟩

/-- `mean(z) = (z_1 + z_2 + z_3 + z_4) / 4` (R113). -/
def mean {K : Type} [Add K] [Div K] [NatCast K] (z : Four K) : K :=
  (z.v1 + z.v2 + z.v3 + z.v4) / ((4 : Nat) : K)

/-- A node mapped into the domain `[a, b]`: `((b - a) u + a + b) / 2` (R111). -/
def nodeToDomain {K : Type} [Add K] [Sub K] [Mul K] [Div K] [NatCast K] (a b u : K) : K :=
  ((b - a) * u + a + b) / ((2 : Nat) : K)

/-- The Chebyshev polynomial `2u² - 1` (R113, R115). -/
def chebyshev2 {K : Type} [Sub K] [Mul K] [NatCast K] (u : K) : K := ((2 : Nat) : K) * (u * u) - ((1 : Nat) : K)

/-- The Chebyshev polynomial `4u³ - 3u` (R113, R115). -/
def chebyshev3 {K : Type} [Sub K] [Mul K] [NatCast K] (u : K) : K :=
  ((4 : Nat) : K) * (u * u * u) - ((3 : Nat) : K) * u

/-- The solver `fit(f, a, b)` at the nodes `u` (R111, R112, R113). -/
def fit {K : Type} [Add K] [Sub K] [Mul K] [Div K] [NatCast K] (u : Four K) (f : K → K) (a b : K) : Coef K :=
  let y := u.map (fun t => f (nodeToDomain a b t))
  ⟨mean y, ((2 : Nat) : K) * mean (u.times y), ((2 : Nat) : K) * mean ((u.map chebyshev2).times y),
    ((2 : Nat) : K) * mean ((u.map chebyshev3).times y)⟩

/-- The evaluator (R115): `c0 + c1 u + c2 (2u² - 1) + c3 (4u³ - 3u)` with `u = (2x - a - b) / (b - a)`. -/
def approx {K : Type} [Add K] [Sub K] [Mul K] [Div K] [NatCast K] (c : Coef K) (a b x : K) : K :=
  let u := (((2 : Nat) : K) * x - a - b) / (b - a)
  c.c0 + c.c1 * u + c.c2 * chebyshev2 u + c.c3 * chebyshev3 u

/-- `clamp(v, 0, 1)` (R8, R116). -/
def clampUnit (v : Rat) : Rat := if v < 0 then 0 else if 1 < v then 1 else v

/-- `approx(in / MAX)` of an input code with the table `c`, on the framer's domain (R117, R118). -/
def approxCode (c : Coef Rat) (input : Word) : Rat :=
  approx c Config.gammaDomainLow Config.gammaDomainHigh ((input.toNat : Rat) / (Config.maxBrightness : Rat))

/-- `G(in) = clamp(approx(in / MAX), 0, 1)` (R118). -/
def gammaOf (c : Coef Rat) (input : Word) : Rat := clampUnit (approxCode c input)

/-- `gamma_pixel(in, B) = floor(G(in) * B)` (R119), in exact rational arithmetic (R120). -/
def gammaPixel (c : Coef Rat) (input b : Word) : Word :=
  BitVec.ofNat 16 (Rat.floor (gammaOf c input * (b.toNat : Rat))).toNat

/-- `pixel(in, B)` (R136): the zero rule first (R135), then the gamma path or the linear path. -/
def pixel (p : Config.Params) (input b : Word) : Word :=
  if input = 0#16 then 0#16 else if p.gammaEn then gammaPixel p.coef input b else satMul input b

end Sys2Proof.Machine
end

