-- ==== Sys2Proof/Machine/Operands.lean ====
section
/-! DEFINITION. The one operand form a command reaches state through: a draw-buffer index (R53, R71, R132). -/

namespace Sys2Proof.Machine

/-- An element of the draw buffer named by a command's index: `F_INDEX`, and nothing else, for `idx >= N` (R132);
otherwise `act` (R130, R131). -/
def withIndex (idx : Nat) (act : State → State) (s : State) : State :=
  if idx < s.par.n then act s else raise .index s

end Sys2Proof.Machine
end

