-- ==== Sys2Proof/Machine/BufferOps.lean ====
section
/-! DEFINITION. The commands DRAW_WR, DRAW_RD, SET_BRIGHT, CLEAR and CORRECT (R130 to R138), and the correction phase
that WRITE_FRAME shares. -/

namespace Sys2Proof.Machine

/-- DRAW_WR `idx`, `val` (R131, R132). -/
def execDrawWr (idx : Nat) (val : Word) (s : State) : Result :=
  micro (withIndex idx (fun t => t.setDraw (t.draw.write idx val))) s

/-- DRAW_RD `idx` (R130, R132, R72). -/
def execDrawRd (idx : Nat) (s : State) : Result :=
  micro (withIndex idx (fun t => t.respond (t.draw.read idx))) s

/-- SET_BRIGHT `val` (R133). -/
def execSetBright (val : Word) (s : State) : Result := micro (fun t => t.setBright val) s

/-- The elements CLEAR writes: `{DRAW, TX} x {0..N-1}` (R134). -/
def clearTargets (n : Nat) : List (Buffer × Nat) :=
  (List.range n).map (fun i => (Buffer.draw, i)) ++ (List.range n).map (fun i => (Buffer.tx, i))

/-- One element write of CLEAR (R134). -/
def clearElement (x : Buffer × Nat) (s : State) : State :=
  match x with
  | (.draw, i) => s.setDraw (s.draw.write i 0#16)
  | (.tx, i) => s.setTx (s.tx.write i 0#16)

/-- The element writes of CLEAR in the order given, one micro-step each; `HOSTOP` holds those left (R35, R134). -/
def clearLoop (todo : List (Buffer × Nat)) (s : State) : Result :=
  match todo with
  | [] => .next s
  | x :: rest => andThen (micro (fun t => (clearElement x t).setHostOp (.clear rest)) s) (clearLoop rest)

/-- CLEAR (R134), in the order the choices of `order` stand for. -/
def execClear (s : State) : Result :=
  let todo := arrange s.order (clearTargets s.par.n)
  andThen (clearLoop todo ((s.setOrder (s.order.drop todo.length)).setHostOp (.clear todo)))
    (fun t => .next (t.setHostOp .none))

/-- `CORRECT_PIXEL(i)` (R137). -/
def correctPixel (i : Nat) (s : State) : State :=
  s.setTx (s.tx.write i (pixel s.par (s.draw.read i) s.bright))

/-- The pixel steps of a correction pass in the order given, one micro-step each; `HOSTOP` holds those left (R35, R138). -/
def correctLoop (after : AfterPass) (todo : List Nat) (s : State) : Result :=
  match todo with
  | [] => .next s
  | i :: rest =>
    andThen (micro (fun t => (correctPixel i t).setHostOp (.correct rest after)) s) (correctLoop after rest)

/-- The correction phase of CORRECT and WRITE_FRAME: every pixel once, in the order the choices of `order` stand for,
then the micro-step `READY <- 1`, with `HOSTOP` being `h` after it (R138, R158). -/
def correctionPass (after : AfterPass) (h : HostOp) (s : State) : Result :=
  let todo := arrange s.order (List.range s.par.n)
  andThen (correctLoop after todo ((s.setOrder (s.order.drop todo.length)).setHostOp (.correct todo after)))
    (micro (fun t => (t.setReady true).setHostOp h))

/-- CORRECT (R138). -/
def execCorrect (s : State) : Result := correctionPass .stop .none s

end Sys2Proof.Machine
end

