-- ==== Sys2Proof/Machine/Serial.lean ====
section
/-! DEFINITION. The serial commands WRITE_FRAME, PUT_WORD, WRITE_CONFIG, START and STOP (R150, R158 to R163). -/

namespace Sys2Proof.Machine

/-- WRITE_FRAME (R158): the correction phase, then TRANSMIT in the host context. Its last micro-step, `READY <- 0`, is
outside the serial window (R166); `HOSTOP` is `between` before it (log entry 10). -/
def execWriteFrame (s : State) : Result :=
  andThen (correctionPass .transmit .between s) fun t =>
    andThen (hostSlots .between (framePlan t.par) t) (micro (fun u => (u.setReady false).setHostOp .none))

/-- PUT_WORD `k`, `val`: one `put_word(val, k)` (R150). -/
def execPutWord (k : Nat) (val : Word) (s : State) : Result := hostSlots .none (rawPlan k val) s

/-- WRITE_CONFIG (R160). -/
def execWriteConfig (s : State) : Result := writeConfig .none s

/-- START and STOP: the new `CFG`, then WRITE_CONFIG, then `pin(GCK, v)`, `HOSTOP` being `between` outside the serial
window (R35, R162, R163). -/
def switchClock (newCfg : Config.Params → Word → Word) (v : Bool) (s : State) : Result :=
  andThen (micro (fun t => (t.setCfg (newCfg t.par t.cfg)).setHostOp .between) s) fun t =>
    andThen (writeConfig .between t) (micro (fun u => (u.drive ⟨.gck, v⟩).setHostOp .none))

/-- START (R162). -/
def execStart (s : State) : Result := switchClock cfgEnabled true s

/-- STOP (R163). -/
def execStop (s : State) : Result := switchClock cfgDisabled false s

end Sys2Proof.Machine
end

