-- ==== Sys2Proof/Machine/Dispatch.lean ====
section
/-! DEFINITION. The meaning of each command (R75), one arm per row. -/

namespace Sys2Proof.Machine

/-- The whole of one host command, with the TICKs the schedule delivers inside it (R57, R58). -/
def exec (i : Instr) (s : State) : Host.Outcome State Fault Refusal :=
  match i with
  | .drawWr idx val => Sys2Proof.Machine.execDrawWr idx val s
  | .drawRd idx => Sys2Proof.Machine.execDrawRd idx s
  | .setBright val => Sys2Proof.Machine.execSetBright val s
  | .clear => Sys2Proof.Machine.execClear s
  | .correct => Sys2Proof.Machine.execCorrect s
  | .writeFrame => Sys2Proof.Machine.execWriteFrame s
  | .putWord k val => Sys2Proof.Machine.execPutWord k val s
  | .writeConfig => Sys2Proof.Machine.execWriteConfig s
  | .start => Sys2Proof.Machine.execStart s
  | .stop => Sys2Proof.Machine.execStop s

end Sys2Proof.Machine
end

