-- ==== Sys2Proof/Machine/Port.lean ====
section
/-! DEFINITION. The inputs a step takes: the due TICK, else the next command word (R58, R73, R76, R184), and what a reserved
word does (R86). -/

namespace Sys2Proof.Machine

/-- What the next step of the framer is, with the state it starts from. -/
inductive Input where
  /-- A TICK between two commands (R57). -/
  | tick (s : State)
  /-- A command. -/
  | command (i : Instr) (s : State)
  /-- A reserved word (R86). -/
  | reserved (s : State)
  /-- No TICK is due and the host issues nothing. -/
  | idle (s : State)

/-- The next input: the due TICK has priority (R186); then the next command word, decoded (R76). -/
def nextInput (s : State) : Input :=
  if tickDue s then .tick (s.setTicks s.ticks.tail)
  else
    match s.cmds with
    | [] => .idle s
    | c :: cs =>
      match decode c with
      | .ok i => .command i (s.setCmds cs)
      | .error _ => .reserved (s.setCmds cs)

/-- A reserved word raises `F_ILLEGAL` and changes no other state (R86), in one micro-step (R180). -/
def illegal (s : State) : Result := micro (raise .illegal) s

/-- The framer waits: nothing changes but that the tick schedule goes on (log entry 13). -/
def waitInput (s : State) : Result := .next s.countdown

/-- `s` with the command in the low `nbits` bits of `w` as the next one the host issues, and no TICK due before it. -/
def placeCommand (s : State) (nbits w : Nat) : State :=
  { s with cmds := BitVec.ofNat 32 (w % 2 ^ nbits) :: s.cmds, ticks := s.ticks.dropWhile (fun k => k == 0) }

end Sys2Proof.Machine
end

