-- ==== Sys2Proof/Machine/Step.lean ====
section
/-! DEFINITION. One step of the framer (R7, R9, R57): a TICK between commands, a whole command, or waiting. -/

namespace Sys2Proof.Machine

/-- One step: the next input, and what it does. -/
def step (s : State) : Host.Outcome State Fault Refusal :=
  match nextInput s with
  | .tick t => tick t
  | .command i t => exec i t
  | .reserved t => illegal t
  | .idle t => waitInput t

/-- `s` with the given command word where the next step takes its command. -/
def State.withFetchWord (s : State) (nbits w : Nat) : State := placeCommand s nbits w

end Sys2Proof.Machine
end

