-- ==== Sys2Proof/Safety.lean ====
section
/-! DEFINITION. The terms claims are made in: the invariant of the framer, the end of a run (R231), the TICKs a stretch of
micro-steps meets, and the state with other gating bits (R164). -/

namespace Sys2Proof.Machine

/-- All lines low (R37). -/
def Levels.low : Levels := ⟨false, false, false, false⟩

/-- What every state between two steps keeps: a legal instance (R5); both buffers in canonical form (R21, R22); the bits of
`CFG` other than `EN` as at reset (R25, R213); no host command in progress and the cursor idle (R28, R35, R58); clock and
latch low (R225); the line registers at the levels the wire trace ends with (R33); no `F_COLLISION` (R187: the run has
stopped). -/
def Inv (s : State) : Prop :=
  s.par.wf = true ∧ s.draw.wf s.par.n = true ∧ s.tx.wf s.par.n = true ∧
    s.cfg &&& ~~~s.par.enMask = s.par.cfgReset &&& ~~~s.par.enMask ∧
    s.hostop = .none ∧ s.seq = .idle ∧ s.clk = false ∧ s.lat = false ∧
    replay Levels.low s.wire = s.levels ∧ s.fault &&& FaultCode.collision.mask = 0

/-- The run is over: no command in progress or to come, no TICK to come (R231). -/
def State.over (s : State) : Bool := s.hostop == .none && s.cmds.isEmpty && s.ticks.isEmpty

/-- The final state is good: no fault bit is set (R231). -/
def State.good (s : State) : Bool := s.fault == 0

/-- How many TICKs the schedule delivers before one of the next `m` micro-steps. -/
def ticksWithin (m : Nat) (ts : List Nat) : Nat :=
  match ts with
  | [] => 0
  | k :: rest => if k < m then ticksWithin (m - k) rest + 1 else 0

/-- The schedule after `m` micro-steps and the TICKs delivered before them. -/
def ticksAfter (m : Nat) (ts : List Nat) : List Nat :=
  match ts with
  | [] => []
  | k :: rest => if k < m then ticksAfter (m - k) rest else (k - m) :: rest

/-- R86's own list of the reserved words, item by item. -/
def IsReservedWord (c : Cmd) : Prop :=
  c.extractLsb' 28 4 ∈ [0x0#4, 0xB#4, 0xC#4, 0xD#4, 0xE#4, 0xF#4] ∨
    (c.extractLsb' 28 4 = 0x2#4 ∧ c.extractLsb' 0 16 ≠ 0) ∨
    (c.extractLsb' 28 4 = 0x3#4 ∧ c.extractLsb' 16 12 ≠ 0) ∨
    (c.extractLsb' 28 4 ∈ [0x4#4, 0x5#4, 0x6#4, 0x8#4, 0x9#4, 0xA#4] ∧
      (c.extractLsb' 16 12 ≠ 0 ∨ c.extractLsb' 0 16 ≠ 0)) ∨
    (c.extractLsb' 28 4 = 0x7#4 ∧ c.extractLsb' 21 7 ≠ 0)

/-- The events of a frame of the buffer `tx` (R89). -/
def frameEvents (p : Config.Params) (tx : Memory) : List Event := wordsEvents (frameWords p tx)

/-- The transmit buffer an undivided correction pass of `s` leaves (R139). -/
def corrected (s : State) : Memory := s.draw.map (fun v => pixel s.par v s.bright)

/-- Both buffers of `s` in canonical form. -/
def State.buffersOk (s : State) : Bool := s.draw.wf s.par.n && s.tx.wf s.par.n

/-- What a TICK that collides with a host command leaves (R187): the fault bit set on top of the old ones; no TRANSMIT and
no count; the buffers, the brightness, `READY` and `GCK` untouched; on the wire only the events `sent` of the command. -/
def CollisionLeaves (s u : State) (sent : List Event) : Prop :=
  u.fault = s.fault ||| 0b100#3 ∧ u.frame = s.frame ∧ u.draw = s.draw ∧ u.bright = s.bright ∧ u.gck = s.gck ∧
    u.resp = s.resp ∧ u.cmds = s.cmds ∧ u.par = s.par ∧ u.hostop = .serial ∧ u.wire = s.wire ++ sent

/-- `s` with another `GCK` and another `CFG`, the two places software might expect a gate at (R164). -/
def State.withGate (g : Bool) (c : Word) (s : State) : State := { s with gck := g, cfg := c }

/-- `SEQ` when a configuration write has sent `edges` clock rising edges (R28): 16 to each of its two words. -/
def configCursor (edges : Nat) : Cursor :=
  if edges < 16 then ⟨.cfgOpen, 0, edges⟩
  else if edges < 32 then ⟨.cfgWord, 0, edges - 16⟩
  else .idle

/-- `SEQ` when a frame of `n` LEDs has sent `edges` clock rising edges (R28): 16 to each word, the padding words counted
from 0 up, the LED words by LED index from `n - 1` down to 0, then the end word. -/
def frameCursor (n edges : Nat) : Cursor :=
  if edges / 16 < padCount n then ⟨.pad, edges / 16, edges % 16⟩
  else if edges / 16 < padCount n + n then ⟨.data, n - 1 - (edges / 16 - padCount n), edges % 16⟩
  else if edges / 16 = padCount n + n then ⟨.endWord, 0, edges % 16⟩
  else .idle

/-- How many clock rising edges a trace of serial events drives (R28, R153). -/
def clockEdges (es : List Event) : Nat := es.count ⟨.clk, true⟩

/-- The outcome with `g` applied to the state it holds. -/
def mapResult (g : State → State) (r : Result) : Result :=
  match r with
  | .next s => .next (g s)
  | .fault (.collision s) => .fault (.collision (g s))
  | .refused e => .refused e

end Sys2Proof.Machine
end

