-- ==== Sys2Proof/Certificates/Slice0/Obligations.lean ====
section
/-! DEFINITION. The statements for the provers, each from the rules of spec/ it names. TICKs and visiting orders are spoken of
through the model's input fields `ticks` (with `quiet`, `elapse`) and `order`: log entries 2 and 3. -/

open Sys2Proof Sys2Proof.Machine

/-! ### Decoding and the step -/

/-- R76, R58: with no TICK due, a step runs the command the next word decodes to, on the state with that word taken off the
port. The second clause is the model's choice of how a word comes to run (log entry 6), no rule's words: a word placed by
`withFetchWord` is at the head of the port with the TICKs due at once dropped, and the very next step runs it. -/
def Obligations.StepRunsDecodedCommand : Prop :=
  (∀ (s : State) (c : Cmd) (cs : List Cmd) (i : Instr), tickDue s = false → s.cmds = c :: cs → decode c = .ok i →
    i.wellFormed = true ∧ step s = exec i (s.setCmds cs)) ∧
  ∀ (s : State) (w : Nat) (i : Instr), decodeTableWord 32 w = some i →
    step (s.withFetchWord 32 w) = exec i (s.setTicks (s.ticks.dropWhile (fun k => k == 0)))

/-- R57, R186: a TICK due between two commands is a step of its own, before the next command. The model's choice (log entry
13), no rule's words: with no TICK due and nothing issued a step changes nothing but the count to the next TICK. -/
def Obligations.StepServesTickOrWaits : Prop :=
  (∀ (s : State) (rest : List Nat), s.ticks = 0 :: rest → step s = tick (s.setTicks rest)) ∧
  ∀ s : State, tickDue s = false → s.cmds = [] → step s = .next { s with ticks := elapse 1 s.ticks }

/-- R86: the words without a command are those of its list, and issuing one sets `F_ILLEGAL` and changes no other state, no
line and no response. (The port and the tick schedule are inputs and move on.) That the machine goes on, in a next state, is
log entry 5. -/
def Obligations.ReservedWordRaisesIllegal : Prop :=
  (∀ c : Cmd, (∃ r, decode c = .error r) ↔ IsReservedWord c) ∧
  ∀ (s : State) (c : Cmd) (cs : List Cmd), s.quiet 1 = true → s.cmds = c :: cs → IsReservedWord c →
    step s = .next { s with cmds := cs, ticks := elapse 1 s.ticks, fault := s.fault ||| 0b001#3 }

/-- R71, R76 with the matches and masks of R75: each row's words decode to its command with the operand bits R71 names, and
a word of no row is reserved; at most one row matches any word. -/
def Obligations.DecodeFollowsOpcodeMap : Prop :=
  ∀ c : Cmd,
    (c &&& 0xF0000000#32 = 0x10000000#32 → decode c = .ok (.drawWr (c.extractLsb' 16 12).toNat (c.extractLsb' 0 16))) ∧
    (c &&& 0xF000FFFF#32 = 0x20000000#32 → decode c = .ok (.drawRd (c.extractLsb' 16 12).toNat)) ∧
    (c &&& 0xFFFF0000#32 = 0x30000000#32 → decode c = .ok (.setBright (c.extractLsb' 0 16))) ∧
    (c = 0x40000000#32 → decode c = .ok .clear) ∧
    (c = 0x50000000#32 → decode c = .ok .correct) ∧
    (c = 0x60000000#32 → decode c = .ok .writeFrame) ∧
    (c &&& 0xFFE00000#32 = 0x70000000#32 →
      decode c = .ok (.putWord (c.extractLsb' 16 5).toNat (c.extractLsb' 0 16))) ∧
    (c = 0x80000000#32 → decode c = .ok .writeConfig) ∧
    (c = 0x90000000#32 → decode c = .ok .start) ∧
    (c = 0xA0000000#32 → decode c = .ok .stop) ∧
    ((∀ r ∈ opcodeRows, c &&& r.mask ≠ r.mtch) → ∃ why, decode c = .error why) ∧
    (opcodeRows.filter (fun r => c &&& r.mask == r.mtch)).length ≤ 1

/-- Decoding the word of a well-formed command gives the command back (R71, R75, R76). -/
def Obligations.DecodeOfEncode : Prop :=
  ∀ i : Instr, i.wellFormed = true → decode (encode i) = .ok i

/-- A word that decodes is the word of its command, and the command is well formed: one word, one meaning, no bit dropped
(R75, R76). -/
def Obligations.EncodeOfDecode : Prop :=
  ∀ (c : Cmd) (i : Instr), decode c = .ok i → i.wellFormed = true ∧ encode i = c

/-- Words of 95_test_vectors.md V50. -/
def Obligations.SampleWordsDecode : Prop :=
  decode 0x1002FFFF#32 = .ok (.drawWr 2 0xFFFF#16) ∧ decode 0x20010000#32 = .ok (.drawRd 1) ∧
    decode 0x30008000#32 = .ok (.setBright 0x8000#16) ∧ decode 0x40000000#32 = .ok .clear ∧
    decode 0x7003A001#32 = .ok (.putWord 3 0xA001#16) ∧ decode 0x701F0000#32 = .ok (.putWord 31 0) ∧
    decode 0x90000000#32 = .ok .start

/-! ### The draw port and the brightness register -/

/-- R131: DRAW_WR on an existing index writes that element and nothing else; on another it sets `F_INDEX` and nothing else.
That the machine goes on, in a next state, is log entry 5. -/
def Obligations.DrawWriteStoresElement : Prop :=
  ∀ (s : State) (idx : Nat) (val : Word), s.quiet 1 = true →
    exec (.drawWr idx val) s =
      if idx < s.par.n then .next { s with draw := s.draw.set idx val, ticks := elapse 1 s.ticks }
      else .next { s with fault := s.fault ||| 0b010#3, ticks := elapse 1 s.ticks }

/-- R130, R72: DRAW_RD on an existing index puts that element on the response port and changes no state; on another it sets
`F_INDEX`, responds nothing and changes nothing else. That the machine goes on, in a next state, is log entry 5. -/
def Obligations.DrawReadResponds : Prop :=
  ∀ (s : State) (idx : Nat), s.quiet 1 = true → s.buffersOk = true →
    (∀ h : idx < s.draw.length,
      exec (.drawRd idx) s = .next { s with resp := s.resp ++ [s.draw[idx]], ticks := elapse 1 s.ticks }) ∧
    (s.par.n ≤ idx →
      exec (.drawRd idx) s = .next { s with fault := s.fault ||| 0b010#3, ticks := elapse 1 s.ticks })

/-- R132: an index `N` or above, read or written, sets `F_INDEX`; nothing is read, written or responded. That the machine
goes on, in a next state, is log entry 5. -/
def Obligations.OutOfRangeIndexRaisesFault : Prop :=
  ∀ (s : State) (idx : Nat) (i : Instr), s.quiet 1 = true → s.par.n ≤ idx →
    (i = .drawRd idx ∨ ∃ val, i = .drawWr idx val) →
    exec i s = .next { s with fault := s.fault ||| 0b010#3, ticks := elapse 1 s.ticks }

/-- R54: an element read after a write is the value written, at that index; every other element is as before. Buffers as
lists of elements are log entry 7. -/
def Obligations.ElementReadAfterWrite : Prop :=
  ∀ (m : Memory) (i j : Nat) (v : Word), i < m.length →
    (m.write i v).read j = if j = i then v else m.read j

/-- R133: SET_BRIGHT writes the brightness register and nothing else. -/
def Obligations.SetBrightWritesScale : Prop :=
  ∀ (s : State) (val : Word), s.quiet 1 = true →
    exec (.setBright val) s = .next { s with bright := val, ticks := elapse 1 s.ticks }

/-! ### CLEAR and CORRECT -/

/-- R134: CLEAR that no TICK divides zeroes both buffers and leaves everything else, `READY` included, whatever the visiting
order. Choices and schedule in the form of log entries 2 and 3. -/
def Obligations.ClearZeroesBothBuffers : Prop :=
  ∀ s : State, s.buffersOk = true → s.quiet (2 * s.par.n) = true →
    exec .clear s = .next
      { s with
        draw := List.replicate s.par.n 0#16
        tx := List.replicate s.par.n 0#16
        order := s.order.drop (2 * s.par.n)
        hostop := .none
        ticks := elapse (2 * s.par.n) s.ticks }

/-- R134, R57: CLEAR ends with both buffers zero for every schedule of TICKs and every visiting order; the TICKs inside it
are ordinary ones. Schedule and order in the form of log entries 2 and 3. -/
def Obligations.ClearUnderAnyTicks : Prop :=
  ∀ s : State, s.buffersOk = true →
    ∃ t, exec .clear s = .next t ∧ t.draw = List.replicate s.par.n 0#16 ∧ t.tx = List.replicate s.par.n 0#16 ∧
      t.bright = s.bright ∧ t.cfg = s.cfg ∧ t.gck = s.gck ∧ t.fault = s.fault ∧ t.resp = s.resp ∧ t.par = s.par ∧
      t.cmds = s.cmds ∧ t.hostop = .none ∧
      t.ready = (if ticksWithin (2 * s.par.n) s.ticks = 0 then s.ready else false) ∧
      t.frame = s.frame + BitVec.ofNat 32 (ticksWithin (2 * s.par.n) s.ticks) ∧
      t.ticks = ticksAfter (2 * s.par.n) s.ticks

/-- R137, R138: CORRECT that no TICK divides writes `pixel(DRAW[i], BRIGHT)` to every `TX[i]`, sets `READY`, and leaves
everything else, whatever the visiting order. Choices and schedule in the form of log entries 2 and 3. -/
def Obligations.CorrectPassResult : Prop :=
  ∀ s : State, s.buffersOk = true → s.quiet (s.par.n + 1) = true →
    exec .correct s = .next
      { s with
        tx := s.draw.map (fun v => pixel s.par v s.bright)
        ready := true
        order := s.order.drop s.par.n
        hostop := .none
        ticks := elapse (s.par.n + 1) s.ticks }

/-- R139: whatever TICKs fall into it and whatever the visiting order, CORRECT ends with `TX[i] = pixel(DRAW[i], BRIGHT)`
for every `i` and `READY = 1`. The spec marks this as its own derivation. Schedule and order in the form of log entries 2
and 3. -/
def Obligations.CorrectUnderAnyTicks : Prop :=
  ∀ s : State, s.buffersOk = true →
    ∃ t, exec .correct s = .next t ∧ t.tx = s.draw.map (fun v => pixel s.par v s.bright) ∧ t.ready = true ∧
      t.draw = s.draw ∧ t.bright = s.bright ∧ t.cfg = s.cfg ∧ t.gck = s.gck ∧ t.fault = s.fault ∧ t.resp = s.resp ∧
      t.par = s.par ∧ t.cmds = s.cmds ∧ t.hostop = .none ∧
      t.frame = s.frame + BitVec.ofNat 32 (ticksWithin (s.par.n + 1) s.ticks) ∧
      t.ticks = ticksAfter (s.par.n + 1) s.ticks

/-- R220: the frames that TICKs inside a CORRECT send hold, LED by LED, the old or the new value; those inside a CLEAR the
old value or 0; those inside a WRITE_FRAME before its own frame the old or the new value, those after its last pin event
the new one. Nothing else but WRITE_FRAME's own frame goes on the wire. The spec marks this as its own derivation. Schedule and order in the form
of log entries 2 and 3. -/
def Obligations.TornFrameWords : Prop :=
  (∀ s t : State, s.buffersOk = true → exec .correct s = .next t →
    ∃ frames : List Memory, frames.length = ticksWithin (s.par.n + 1) s.ticks ∧
      t.wire = s.wire ++ frames.flatMap (frameEvents s.par) ∧
      ∀ m ∈ frames, m.length = s.par.n ∧
        ∀ i < s.par.n, m.read i = s.tx.read i ∨ m.read i = pixel s.par (s.draw.read i) s.bright) ∧
  (∀ s t : State, s.buffersOk = true → exec .clear s = .next t →
    ∃ frames : List Memory, frames.length = ticksWithin (2 * s.par.n) s.ticks ∧
      t.wire = s.wire ++ frames.flatMap (frameEvents s.par) ∧
      ∀ m ∈ frames, m.length = s.par.n ∧ ∀ i < s.par.n, m.read i = s.tx.read i ∨ m.read i = 0#16) ∧
  ∀ s t : State, s.buffersOk = true → exec .writeFrame s = .next t →
    ∃ (frames : List Memory) (late : Nat), frames.length = ticksWithin (s.par.n + 2) s.ticks ∧
      frames.length + late =
        ticksWithin (s.par.n + 1 + (frameEvents s.par (corrected s)).length + 1) s.ticks ∧
      t.wire = s.wire ++ frames.flatMap (frameEvents s.par) ++ frameEvents s.par (corrected s)
        ++ (List.replicate late (corrected s)).flatMap (frameEvents s.par) ∧
      ∀ m ∈ frames, m.length = s.par.n ∧
        ∀ i < s.par.n, m.read i = s.tx.read i ∨ m.read i = pixel s.par (s.draw.read i) s.bright

/-- R220, R134, R138: every mixture is admitted. For any set of pixels there are a visiting order and a TICK inside CORRECT,
and inside the correction phase of WRITE_FRAME, that send a frame with the new value at exactly those pixels and the old
value at the others. For any set of CLEAR's
element writes but the whole one (a TICK after the last write is outside the command) there are a visiting order and a
TICK inside CLEAR that send a frame with 0 at exactly the LEDs whose `TX` write is in the set and the old value at the
others. The spec marks this as its own derivation. Schedule and order in the form of log entries 2 and 3. -/
def Obligations.EveryTornMixtureReachable : Prop :=
  (∀ (s : State) (done : List Nat), s.buffersOk = true → done.Nodup → (∀ i ∈ done, i < s.par.n) →
    ∃ (order : List Nat) (t : State),
      exec .correct ((s.setOrder order).setTicks [done.length]) = .next t ∧
      t.wire = s.wire ++ frameEvents s.par ((List.range s.par.n).map fun i =>
        if i ∈ done then pixel s.par (s.draw.read i) s.bright else s.tx.read i)) ∧
  (∀ (s : State) (done : List Nat), s.buffersOk = true → done.Nodup → (∀ i ∈ done, i < s.par.n) →
    ∃ (order : List Nat) (t : State),
      exec .writeFrame ((s.setOrder order).setTicks [done.length]) = .next t ∧
      t.wire = s.wire ++ frameEvents s.par ((List.range s.par.n).map fun i =>
        if i ∈ done then pixel s.par (s.draw.read i) s.bright else s.tx.read i) ++ frameEvents s.par (corrected s)) ∧
  ∀ (s : State) (done : List (Buffer × Nat)), s.buffersOk = true → done.Nodup → (∀ x ∈ done, x.2 < s.par.n) →
    done.length < 2 * s.par.n →
    ∃ (order : List Nat) (t : State),
      exec .clear ((s.setOrder order).setTicks [done.length]) = .next t ∧
      t.wire = s.wire ++ frameEvents s.par ((List.range s.par.n).map fun i =>
        if (Buffer.tx, i) ∈ done then 0#16 else s.tx.read i)

/-- R134, R138 ("in any order"): for elements of every type, CLEAR's pairs of a buffer and an index and CORRECT's indices
among them, the visiting order is always an order of the elements, and every order is one the choices can give. The
choices are log entry 3. -/
def Obligations.EveryVisitingOrderReachable : Prop :=
  ∀ (α : Type) (xs : List α), (∀ cs : List Nat, (arrange cs xs).Perm xs) ∧
    ∀ ys : List α, ys.Perm xs → ∃ cs : List Nat, arrange cs xs = ys

/-- R140: after a CORRECT an element is 0 where `DRAW` is, at most `BRIGHT` on the gamma path, and 0 everywhere with `BRIGHT
= 0`. The spec marks this as its own derivation. -/
def Obligations.CorrectOutputBounds : Prop :=
  ∀ s : State, s.buffersOk = true →
    ∃ t, exec .correct s = .next t ∧ t.tx.length = s.par.n ∧
      ∀ i < s.par.n,
        (t.tx.read i).toNat ≤ 65535 ∧ (s.draw.read i = 0#16 → t.tx.read i = 0#16) ∧
        (s.par.gammaEn = true → (t.tx.read i).toNat ≤ s.bright.toNat) ∧ (s.bright = 0#16 → t.tx.read i = 0#16)

/-! ### Arithmetic and the gamma stage -/

/-- R101: `sat_add`, its properties, corner cases and examples. -/
def Obligations.SatAddLimitsSum : Prop :=
  (∀ a b : Word, (satAdd a b).toNat = min (a.toNat + b.toNat) 65535 ∧ a.toNat ≤ (satAdd a b).toNat ∧
    ((satAdd a b).toNat = 65535 ↔ 65535 ≤ a.toNat + b.toNat) ∧ satAdd a b = satAdd b a ∧
    satAdd a 0#16 = a ∧ satAdd 65535#16 b = 65535#16) ∧
  satAdd 65000#16 1000#16 = 65535#16 ∧ satAdd 100#16 200#16 = 300#16

/-- R102: `sat_sub`, its property, corner cases and examples. -/
def Obligations.SatSubStopsAtZero : Prop :=
  (∀ a b : Word, ((satSub a b).toNat : Int) = max ((a.toNat : Int) - b.toNat) 0 ∧
    (a.toNat < b.toNat → satSub a b = 0#16) ∧ satSub a 0#16 = a ∧ satSub a a = 0#16 ∧ satSub 0#16 b = 0#16) ∧
  satSub 100#16 200#16 = 0#16 ∧ satSub 300#16 100#16 = 200#16

/-- R103: `sat_offset` for every integer offset, its relation to `sat_add` and `sat_sub`, and examples. The relation is the
spec's own derivation. -/
def Obligations.SatOffsetClamps : Prop :=
  (∀ (v : Word) (d : Int), ((satOffset v d).toNat : Int) = min (max ((v.toNat : Int) + d) 0) 65535 ∧
    satOffset v 0 = v ∧ (0 ≤ d → satOffset v d = satAdd v (BitVec.ofNat 16 (min d 65535).toNat)) ∧
    (d < 0 → satOffset v d = satSub v (BitVec.ofNat 16 (min (-d) 65535).toNat))) ∧
  satOffset 10#16 (-20) = 0#16 ∧ satOffset 65530#16 10 = 65535#16 ∧ satOffset 1000#16 (-1) = 999#16

/-- R104: `sat_mul`, its corner cases and examples. The bound 2^32 is the spec's own derivation. -/
def Obligations.SatMulLimitsProduct : Prop :=
  (∀ a b : Word, (satMul a b).toNat = min (a.toNat * b.toNat) 65535 ∧ a.toNat * b.toNat < 2 ^ 32 ∧
    satMul a b = satMul b a ∧ satMul a 0#16 = 0#16 ∧ satMul 0#16 b = 0#16 ∧ satMul a 1#16 = a ∧
    (1 ≤ a.toNat → 1 ≤ b.toNat → ((satMul a b).toNat = 65535 ↔ 65535 ≤ a.toNat * b.toNat))) ∧
  satMul 0x7FFF#16 2#16 = 0xFFFE#16 ∧ satMul 0x8000#16 2#16 = 0xFFFF#16 ∧ satMul 300#16 300#16 = 65535#16

/-- R105: the four functions are monotone in each operand, `sat_sub` antitone in the second. The spec marks this as its own
derivation. -/
def Obligations.SaturatingMonotone : Prop :=
  ∀ a a' b b' : Word, ∀ d d' : Int, a.toNat ≤ a'.toNat → b.toNat ≤ b'.toNat → d ≤ d' →
    (satAdd a b).toNat ≤ (satAdd a' b').toNat ∧ (satSub a b').toNat ≤ (satSub a' b).toNat ∧
    (satOffset a d).toNat ≤ (satOffset a' d').toNat ∧ (satMul a b).toNat ≤ (satMul a' b').toNat

/-- R115, R116, R117, R118, R119: for every table, `G(in)` is the polynomial at `u = 2 (in / MAX) - 1` limited to `[0, 1]`, and
`gamma_pixel(in, B)` is the floor of `G(in) * B`, with no bit lost to the 16-bit result, and lies in `0..B`; 0 for `B = 0`
and for `G(in) = 0`, `B` for `G(in) = 1`; and R119's example. -/
def Obligations.GammaPixelIsFloor : Prop :=
  (∀ (c : Coef Rat) (input b : Word) (u : Rat), u = 2 * ((input.toNat : Rat) / 65535) - 1 →
    gammaOf c input =
      min (max (c.c0 + c.c1 * u + c.c2 * (2 * u ^ 2 - 1) + c.c3 * (4 * u ^ 3 - 3 * u)) 0) 1 ∧
    ((gammaPixel c input b).toNat : Int) = ⌊gammaOf c input * (b.toNat : Rat)⌋ ∧
    (gammaPixel c input b).toNat ≤ b.toNat ∧ gammaPixel c input 0#16 = 0#16 ∧
    (gammaOf c input = 1 → gammaPixel c input b = b) ∧ (gammaOf c input = 0 → gammaPixel c input b = 0#16)) ∧
  gammaPixel Config.referenceCoef 32768#16 65535#16 = 9454#16

/-- R123: P1, P2 and P4 for every table, and P3: on the gamma path a pixel step writes one value for one input, brightness
and table, in whatever state and at whatever index. The spec marks this as its own derivation. -/
def Obligations.GammaPixelProperties : Prop :=
  (∀ (c : Coef Rat) (input b b' : Word),
    (gammaPixel c input b).toNat ≤ b.toNat ∧ b.toNat ≤ 65535 ∧ gammaPixel c input 0#16 = 0#16 ∧
    (b.toNat ≤ b'.toNat → (gammaPixel c input b).toNat ≤ (gammaPixel c input b').toNat)) ∧
  ∀ (s s' : State) (i i' : Nat), s.par.gammaEn = true → s'.par.gammaEn = true → s.par.coef = s'.par.coef →
    s.bright = s'.bright → s.draw.read i = s'.draw.read i' → s.draw.read i ≠ 0#16 → i < s.tx.length →
    i' < s'.tx.length → (correctPixel i s).tx.read i = (correctPixel i' s').tx.read i'

/-- R135, R136: the pixel function, its corner cases and examples. -/
def Obligations.PixelFunction : Prop :=
  (∀ (p : Config.Params) (input b : Word),
    pixel p 0#16 b = 0#16 ∧ pixel p input 0#16 = 0#16 ∧
    (input ≠ 0#16 → p.gammaEn = true →
      ((pixel p input b).toNat : Int) = ⌊gammaOf p.coef input * (b.toNat : Rat)⌋ ∧
      (pixel p input b).toNat ≤ b.toNat) ∧
    (input ≠ 0#16 → p.gammaEn = false → (pixel p input b).toNat = min (input.toNat * b.toNat) 65535) ∧
    (p.gammaEn = false → pixel p input 1#16 = input)) ∧
  pixel { Config.illustration with gammaEn := true } 65535#16 32768#16 = 32768#16 ∧
  pixel Config.illustration 0x7FFF#16 2#16 = 0xFFFE#16

/-- R122, for the reference table: the values at both ends, where the clamp is active at the bottom and at the top, and the
four listed outputs. The spec marks this as its own derivation. -/
def Obligations.ReferenceTableRanges : Prop :=
  approxCode Config.referenceCoef 0#16 = 103 / 100000 ∧ approxCode Config.referenceCoef 65535#16 = 100053 / 100000 ∧
    (∀ input : Word, approxCode Config.referenceCoef input < 0 ↔ 3343 ≤ input.toNat ∧ input.toNat ≤ 3913) ∧
    (∀ input : Word, 1 < approxCode Config.referenceCoef input ↔ 65523 ≤ input.toNat) ∧
    gammaPixel Config.referenceCoef 1#16 65535#16 = 67#16 ∧ gammaPixel Config.referenceCoef 1000#16 65535#16 = 36#16 ∧
    gammaPixel Config.referenceCoef 3500#16 65535#16 = 0#16 ∧
    gammaPixel Config.referenceCoef 8192#16 65535#16 = 138#16

/-- R110: the exact values of the four Chebyshev nodes. The spec marks this as its own derivation. -/
def Obligations.ChebyshevNodeValues : Prop :=
  ∀ u : Four ℝ, IsChebyshevNodes u →
    u.v1 = -(Real.sqrt (2 + Real.sqrt 2) / 2) ∧ u.v2 = -(Real.sqrt (2 - Real.sqrt 2) / 2) ∧
    u.v3 = Real.sqrt (2 - Real.sqrt 2) / 2 ∧ u.v4 = Real.sqrt (2 + Real.sqrt 2) / 2

/-- R110 to R115: the expansion the solver returns takes the sampled values at the four sample points, for every function
and every domain. -/
def Obligations.FitInterpolatesSamples : Prop :=
  ∀ (u : Four ℝ) (f : ℝ → ℝ) (a b : ℝ), IsChebyshevNodes u → a ≠ b →
    ∀ v ∈ [u.v1, u.v2, u.v3, u.v4],
      approx (fit u f a b) a b (nodeToDomain a b v) = f (nodeToDomain a b v)

/-- V2 (95_test_vectors.md): `fit(1/x, 0, 100)` is exactly `(0.08, -0.12, 0.08, -0.04)`. -/
def Obligations.FitOfReciprocal : Prop :=
  ∀ u : Four ℝ, IsChebyshevNodes u →
    fit u (fun x => 1 / x) 0 100 = ⟨8 / 100, -(12 / 100), 8 / 100, -(4 / 100)⟩

/-- R121, V1: the solver's exact coefficients of `x^2.8` on `[0, 1]` round to the reference table's five decimals. -/
def Obligations.ReferenceTableRoundsFit : Prop :=
  ∀ u : Four ℝ, IsChebyshevNodes u →
    |(fit u (fun x => x ^ (Config.gamma : ℝ)) 0 1).c0 - (Config.referenceCoef.c0 : ℝ)| < 1 / 200000 ∧
    |(fit u (fun x => x ^ (Config.gamma : ℝ)) 0 1).c1 - (Config.referenceCoef.c1 : ℝ)| < 1 / 200000 ∧
    |(fit u (fun x => x ^ (Config.gamma : ℝ)) 0 1).c2 - (Config.referenceCoef.c2 : ℝ)| < 1 / 200000 ∧
    |(fit u (fun x => x ^ (Config.gamma : ℝ)) 0 1).c3 - (Config.referenceCoef.c3 : ℝ)| < 1 / 200000

/-! ### The wire -/

/-- R153: the size and the chip view of one `put_word` started with the latch low. The spec marks this as its own
derivation. -/
def Obligations.WordChipView : Prop :=
  ∀ (v : Word) (k : Nat) (l : Levels), l.lat = false →
    (wordEvents v k).length = (if 1 ≤ k ∧ k ≤ 16 then 51 else 50) ∧
    chipView l (wordEvents v k) =
      (List.range 16).map (fun t => .sample (v.getLsbD (15 - t)) (decide (1 ≤ k ∧ k ≤ 16 ∧ 16 - k ≤ t)))
        ++ (if 1 ≤ k ∧ k ≤ 16 then [.latchFall] else [])

/-- R155: the padding count, and that padding and LED words together are the least multiple of 16 that holds the LEDs. The
least multiple is the spec's own derivation. -/
def Obligations.PaddingCount : Prop :=
  (∀ n : Nat, padCount n = (16 - n % 16) % 16 ∧ padCount n ≤ 15 ∧ (padCount n = 0 ↔ n % 16 = 0) ∧
    (padCount n + n) % 16 = 0 ∧ ∀ m, m % 16 = 0 → n ≤ m → padCount n + n ≤ m) ∧
  [1, 3, 16, 17, 20, 32].map padCount = [15, 13, 0, 15, 12, 0]

/-- R157: the size and the chip view of the frame a TICK sends, with `LC_DATA = 0`: padding, the LEDs from the highest index
down, the zero end word with the latch high at the last three edges, one latch fall. The spec marks this as its own
derivation. -/
def Obligations.FrameChipView : Prop :=
  ∀ s : State, s.hostop ≠ .serial → s.par.lcData = 0 → s.tx.length = s.par.n → s.lat = false →
    ∃ (t : State) (es : List Event), tick s = .next t ∧ t.wire = s.wire ++ es ∧
      es.length = 50 * (padCount s.par.n + s.par.n) + 51 ∧
      chipView s.levels es =
        List.replicate (16 * padCount s.par.n) (.sample false false)
          ++ s.tx.reverse.flatMap (fun v => (List.range 16).map (fun b => .sample (v.getLsbD (15 - b)) false))
          ++ (List.range 16).map (fun b => .sample false (decide (13 ≤ b))) ++ [.latchFall]

/-- R150, R225: PUT_WORD that no TICK divides sends its one word and leaves clock and latch low and the data line at bit 0;
nothing else changes. -/
def Obligations.PutWordSendsOneWord : Prop :=
  ∀ (s : State) (k : Nat) (val : Word), s.quiet (wordEvents val k).length = true →
    exec (.putWord k val) s = .next
      { s with
        wire := s.wire ++ wordEvents val k
        clk := false
        dat := val.getLsbD 0
        lat := false
        seq := .idle
        hostop := .none
        ticks := elapse (wordEvents val k).length s.ticks }

/-- R160, R90: WRITE_CONFIG that no TICK divides sends `0x0000/15` and the live `CFG` with 11 latch clocks; nothing else
changes. And the chip view of those events: 32 samples, the latch high at edges 1 to 15 and 21 to 31, two latch falls. -/
def Obligations.WriteConfigSendsTwoWords : Prop :=
  (∀ (cfg : Word) (l : Levels), l.lat = false →
    chipView l (wordEvents 0#16 15 ++ wordEvents cfg 11) =
      (List.range 16).map (fun t => .sample false (decide (1 ≤ t))) ++ [.latchFall]
        ++ (List.range 16).map (fun t => .sample (cfg.getLsbD (15 - t)) (decide (5 ≤ t))) ++ [.latchFall]) ∧
  ∀ s : State, s.quiet 102 = true →
    exec .writeConfig s = .next
      { s with
        wire := s.wire ++ wordEvents 0#16 15 ++ wordEvents s.cfg 11
        clk := false
        dat := s.cfg.getLsbD 0
        lat := false
        seq := .idle
        hostop := .none
        ticks := elapse 102 s.ticks }

/-- R162: START that no TICK divides sets the enable bit, sends the new configuration and raises `GCK`; nothing else
changes. -/
def Obligations.StartEnablesChip : Prop :=
  ∀ s : State, s.quiet 104 = true →
    exec .start s = .next
      { s with
        cfg := s.cfg ||| s.par.enMask
        wire := s.wire ++ wordEvents 0#16 15 ++ wordEvents (s.cfg ||| s.par.enMask) 11 ++ [⟨.gck, true⟩]
        clk := false
        dat := (s.cfg ||| s.par.enMask).getLsbD 0
        lat := false
        gck := true
        seq := .idle
        hostop := .none
        ticks := elapse 104 s.ticks }

/-- R163: STOP that no TICK divides clears the enable bit, sends the new configuration and drops `GCK`; nothing else
changes. -/
def Obligations.StopDisablesChip : Prop :=
  ∀ s : State, s.quiet 104 = true →
    exec .stop s = .next
      { s with
        cfg := s.cfg &&& ~~~s.par.enMask
        wire := s.wire ++ wordEvents 0#16 15 ++ wordEvents (s.cfg &&& ~~~s.par.enMask) 11 ++ [⟨.gck, false⟩]
        clk := false
        dat := (s.cfg &&& ~~~s.par.enMask).getLsbD 0
        lat := false
        gck := false
        seq := .idle
        hostop := .none
        ticks := elapse 104 s.ticks }

/-- R158: WRITE_FRAME that no TICK divides corrects every pixel, sends the frame of the corrected buffer and ends with
`READY = 0`; `FRAME` and every other piece of the spec's state stay. Choices (one used for each pixel) and schedule in the
form of log entries 2 and 3. -/
def Obligations.WriteFrameCorrectsAndSends : Prop :=
  ∀ s : State, s.buffersOk = true → s.quiet (s.par.n + 1 + (frameEvents s.par (corrected s)).length + 1) = true →
    exec .writeFrame s = .next
      { s with
        tx := s.draw.map (fun v => pixel s.par v s.bright)
        wire := s.wire ++ frameEvents s.par (corrected s)
        ready := false
        clk := false
        dat := false
        lat := false
        seq := .idle
        order := s.order.drop s.par.n
        hostop := .none
        ticks := elapse (s.par.n + 1 + (frameEvents s.par (corrected s)).length + 1) s.ticks }

/-! ### The tick -/

/-- R183, R187: TICK outside a serial window sends the frame of `TX`, clears `READY` and counts, modulo 2^32; inside one it
sets `F_COLLISION` and does nothing else, and the run stops. That the fault carries the state the TICK leaves is log
entry 9. -/
def Obligations.TickSendsFrame : Prop :=
  ∀ s : State, s.tx.length = s.par.n →
    (s.hostop ≠ .serial →
      tick s = .next
        { s with
          wire := s.wire ++ frameEvents s.par s.tx
          clk := false
          dat := false
          lat := false
          seq := .idle
          ready := false
          frame := BitVec.ofNat 32 ((s.frame.toNat + 1) % 2 ^ 32) }) ∧
    (s.hostop = .serial → tick s = .fault (.collision { s with fault := s.fault ||| 0b100#3 }))

/-- R185: what a TICK does, the wire included, does not depend on `READY`. The spec marks this as its own derivation. -/
def Obligations.TickIgnoresReady : Prop :=
  ∀ (s : State) (v : Bool), s.hostop ≠ .serial → tick (s.setReady v) = tick s

/-- R59, R185: without a CORRECT in between, the next TICK sends the same frame again. -/
def Obligations.RepeatedTickResendsFrame : Prop :=
  ∀ s : State, s.hostop ≠ .serial →
    ∃ (t u : State) (es : List Event), tick s = .next t ∧ tick t = .next u ∧ t.wire = s.wire ++ es ∧
      u.wire = t.wire ++ es ∧ u.tx = s.tx ∧ u.draw = s.draw ∧ t.ready = false ∧ u.ready = false ∧ u.frame = s.frame + 2

/-- R187, with the windows of R166: a TICK delivered before micro-step `m` of a serial command, strictly inside its window,
collides; the run stops in a state with `F_COLLISION` set, no frame sent and none counted. The window of START and STOP
begins after the `CFG` micro-step, that of WRITE_FRAME after the correction phase and `READY <- 1`. That the fault carries
the state the TICK leaves is log entry 9. -/
def Obligations.TickInsideSerialCommandCollides : Prop :=
  ∀ (s : State) (m : Nat) (rest : List Nat), s.ticks = m :: rest →
    (∀ (k : Nat) (val : Word), 0 < m → m < (wordEvents val k).length →
      ∃ u, exec (.putWord k val) s = .fault (.collision u) ∧ u.cfg = s.cfg ∧ u.tx = s.tx ∧ u.ready = s.ready ∧
        CollisionLeaves s u ((wordEvents val k).take m)) ∧
    (0 < m → m < 102 →
      ∃ u, exec .writeConfig s = .fault (.collision u) ∧ u.cfg = s.cfg ∧ u.tx = s.tx ∧ u.ready = s.ready ∧
        CollisionLeaves s u ((wordsEvents (configWords s.cfg)).take m)) ∧
    (1 < m → m < 103 →
      ∃ u, exec .start s = .fault (.collision u) ∧ u.cfg = s.cfg ||| s.par.enMask ∧ u.tx = s.tx ∧
        u.ready = s.ready ∧ CollisionLeaves s u ((wordsEvents (configWords (s.cfg ||| s.par.enMask))).take (m - 1))) ∧
    (1 < m → m < 103 →
      ∃ u, exec .stop s = .fault (.collision u) ∧ u.cfg = s.cfg &&& ~~~s.par.enMask ∧ u.tx = s.tx ∧
        u.ready = s.ready ∧
        CollisionLeaves s u ((wordsEvents (configWords (s.cfg &&& ~~~s.par.enMask))).take (m - 1))) ∧
    (s.buffersOk = true → s.par.n + 1 < m → m < s.par.n + 1 + (frameEvents s.par (corrected s)).length →
      ∃ u, exec .writeFrame s = .fault (.collision u) ∧ u.cfg = s.cfg ∧ u.tx = corrected s ∧ u.ready = true ∧
        CollisionLeaves s u ((frameEvents s.par (corrected s)).take (m - (s.par.n + 1))))

/-- R28: the sequencer cursor counts the clock rising edges sent and moves to the next word, or to IDLE, after the 16th of a
word; in every phase: RAW, CFG_OPEN and CFG_WORD (also inside START and STOP), PAD, DATA and ENDWORD. Seen in the state a
collision inside a serial command leaves. The moment the cursor changes is log entry 11; that the fault carries the state
is log entry 9. -/
def Obligations.CursorCountsClockEdges : Prop :=
  ∀ (s : State) (m : Nat) (rest : List Nat), s.ticks = m :: rest →
    (∀ (k : Nat) (val : Word), 0 < m → m < (wordEvents val k).length →
      ∃ u, exec (.putWord k val) s = .fault (.collision u) ∧
        ∀ edges, edges = clockEdges ((wordEvents val k).take m) →
          u.seq = if edges < 16 then ⟨.raw, 0, edges⟩ else .idle) ∧
    (0 < m → m < 102 →
      ∃ u, exec .writeConfig s = .fault (.collision u) ∧
        u.seq = configCursor (clockEdges ((wordsEvents (configWords s.cfg)).take m))) ∧
    (1 < m → m < 103 →
      ∃ u, exec .start s = .fault (.collision u) ∧
        u.seq = configCursor (clockEdges ((wordsEvents (configWords (s.cfg ||| s.par.enMask))).take (m - 1)))) ∧
    (1 < m → m < 103 →
      ∃ u, exec .stop s = .fault (.collision u) ∧
        u.seq = configCursor (clockEdges ((wordsEvents (configWords (s.cfg &&& ~~~s.par.enMask))).take (m - 1)))) ∧
    (s.buffersOk = true → s.par.n + 1 < m → m < s.par.n + 1 + (frameEvents s.par (corrected s)).length →
      ∃ u, exec .writeFrame s = .fault (.collision u) ∧
        u.seq = frameCursor s.par.n (clockEdges ((frameEvents s.par (corrected s)).take (m - (s.par.n + 1)))))

/-- R162, R163, R166: a TICK before the first pin event of START or STOP (also between the `CFG` update and it), or after the
last one and before `pin(GCK, v)`, is an ordinary TICK and the command completes. -/
def Obligations.TickOutsideStartStopWindow : Prop :=
  ∀ (s : State) (m : Nat), s.tx.length = s.par.n → s.hostop ≠ .serial → s.ticks = [m] → (m ≤ 1 ∨ m = 103) →
    (∃ t, exec .start s = .next t ∧ t.cfg = s.cfg ||| s.par.enMask ∧ t.gck = true ∧ t.frame = s.frame + 1 ∧
      t.fault = s.fault ∧ t.ready = false ∧ t.tx = s.tx ∧ t.hostop = .none ∧ t.ticks = [] ∧
      t.wire = s.wire ++ (if m = 103
        then wordsEvents (configWords (s.cfg ||| s.par.enMask)) ++ frameEvents s.par s.tx
        else frameEvents s.par s.tx ++ wordsEvents (configWords (s.cfg ||| s.par.enMask))) ++ [⟨.gck, true⟩]) ∧
    (∃ t, exec .stop s = .next t ∧ t.cfg = s.cfg &&& ~~~s.par.enMask ∧ t.gck = false ∧ t.frame = s.frame + 1 ∧
      t.fault = s.fault ∧ t.ready = false ∧ t.tx = s.tx ∧ t.hostop = .none ∧ t.ticks = [] ∧
      t.wire = s.wire ++ (if m = 103
        then wordsEvents (configWords (s.cfg &&& ~~~s.par.enMask)) ++ frameEvents s.par s.tx
        else frameEvents s.par s.tx ++ wordsEvents (configWords (s.cfg &&& ~~~s.par.enMask))) ++ [⟨.gck, false⟩])

/-- R158, R166: a TICK in the correction phase of WRITE_FRAME, before its first pin event, or after its last one, is an
ordinary TICK; the command completes with its own frame sent whole, and `READY = 0`. `HOSTOP` after the last pin event is
log entry 10. -/
def Obligations.TickOutsideWriteFrameWindow : Prop :=
  ∀ (s : State) (m : Nat), s.buffersOk = true → s.ticks = [m] →
    (m ≤ s.par.n + 1 ∨ m = s.par.n + 1 + (frameEvents s.par (corrected s)).length) →
    ∃ (t : State) (torn : Memory), exec .writeFrame s = .next t ∧ t.tx = corrected s ∧ t.ready = false ∧
      t.draw = s.draw ∧ t.bright = s.bright ∧ t.cfg = s.cfg ∧ t.gck = s.gck ∧ t.fault = s.fault ∧
      t.frame = s.frame + 1 ∧ t.hostop = .none ∧ t.ticks = [] ∧ torn.length = s.par.n ∧
      (∀ i < s.par.n, torn.read i = s.tx.read i ∨ torn.read i = (corrected s).read i) ∧
      t.wire = s.wire ++ frameEvents s.par torn ++ frameEvents s.par (corrected s)

/-- R192: over one step `FRAME` advances by the number of TICKs delivered in it, modulo 2^32. The schedule is log entry 2.
-/
def Obligations.FrameCountsTicks : Prop :=
  ∀ s t : State, step s = .next t →
    t.ticks.length ≤ s.ticks.length ∧ t.frame = s.frame + BitVec.ofNat 32 (s.ticks.length - t.ticks.length)

/-! ### The whole machine -/

/-- R38: which command may write which state. The columns TICK may write too are stated for a command no TICK falls into.
The spec marks this as its own derivation. -/
def Obligations.AccessTable : Prop :=
  ∀ (i : Instr) (s t : State), exec i s = .next t →
    t.par = s.par ∧ t.cmds = s.cmds ∧
    ((∀ idx val, i ≠ .drawWr idx val) → i ≠ .clear → t.draw = s.draw) ∧
    (i ≠ .clear → i ≠ .correct → i ≠ .writeFrame → t.tx = s.tx) ∧
    ((∀ val, i ≠ .setBright val) → t.bright = s.bright) ∧
    (i ≠ .start → i ≠ .stop → t.cfg = s.cfg ∧ t.gck = s.gck) ∧
    ((∀ idx, i ≠ .drawRd idx) → t.resp = s.resp) ∧
    ((∀ idx val, i ≠ .drawWr idx val) → (∀ idx, i ≠ .drawRd idx) → t.fault = s.fault) ∧
    (s.ticks = [] →
      t.frame = s.frame ∧ (i ≠ .correct → i ≠ .writeFrame → t.ready = s.ready) ∧
      (i ≠ .writeFrame → (∀ k val, i ≠ .putWord k val) → i ≠ .writeConfig → i ≠ .start → i ≠ .stop →
        t.clk = s.clk ∧ t.dat = s.dat ∧ t.lat = s.lat ∧ t.wire = s.wire))

/-- R9, R182: no command and no step is refused, and the one fault that stops a run is `F_COLLISION`, in a state with that
bit set. That F_ILLEGAL and F_INDEX do not stop a run is log entry 5, the form of the fault log entry 9. -/
def Obligations.NothingIsRefused : Prop :=
  (∀ (i : Instr) (s : State) (r : Refusal), exec i s ≠ .refused r) ∧
  (∀ (s : State) (r : Refusal), step s ≠ .refused r) ∧
  ∀ (s u : State), step s = .fault (.collision u) → u.fault &&& 0b100#3 = 0b100#3 ∧ u.hostop = .serial

/-- R165, R184: a command into which no TICK is delivered always ends, and no command is in progress after one that has more
than one micro-step. The spec marks this as its own derivation. -/
def Obligations.CommandsCompleteWithoutTicks : Prop :=
  ∀ (i : Instr) (s : State), s.ticks = [] →
    ∃ t, exec i s = .next t ∧ t.ticks = [] ∧ (s.hostop = .none → t.hostop = .none)

/-- R182, R57: DRAW_WR, DRAW_RD, SET_BRIGHT, CLEAR and CORRECT complete under every schedule of TICKs. The schedule is log
entry 2. -/
def Obligations.BufferCommandsNeverStop : Prop :=
  ∀ (i : Instr) (s : State), s.hostop ≠ .serial →
    ((∃ idx val, i = .drawWr idx val) ∨ (∃ idx, i = .drawRd idx) ∨ (∃ val, i = .setBright val) ∨ i = .clear ∨
      i = .correct) → ∃ t, exec i s = .next t

/-- R164: with another `GCK` and another `CFG` every command that does not send or switch the configuration, and TICK, does
the same: nothing is gated on `EN` or `GCK`. -/
def Obligations.NothingGatedOnEnable : Prop :=
  ∀ (g : Bool) (c : Word) (s : State),
    tick (s.withGate g c) = mapResult (State.withGate g c) (tick s) ∧
    ∀ i : Instr, i ≠ .writeConfig → i ≠ .start → i ≠ .stop →
      exec i (s.withGate g c) = mapResult (State.withGate g c) (exec i s)

/-- R181: a step never clears a fault bit, nor does the collision that stops a run. -/
def Obligations.FaultBitsSticky : Prop :=
  ∀ s t : State, (step s = .next t ∨ step s = .fault (.collision t)) → s.fault &&& t.fault = s.fault

/-- R33, R72: a step only appends to the wire trace and to the responses, and the line registers hold the levels the new
events leave. The list of responses is log entry 8. -/
def Obligations.TracesOnlyGrow : Prop :=
  ∀ s t : State, step s = .next t →
    (∃ es, t.wire = s.wire ++ es ∧ replay s.levels es = t.levels) ∧ ∃ rs, t.resp = s.resp ++ rs

/-- R25, R213: no step changes a parameter of the instance or a bit of `CFG` other than the enable bit. The parameters in
the state are log entry 1. -/
def Obligations.OtherConfigBitsNeverChange : Prop :=
  ∀ s t : State, step s = .next t →
    t.par = s.par ∧ t.cfg &&& ~~~s.par.enMask = s.cfg &&& ~~~s.par.enMask

/-- The invariant of Safety.lean (R5, R21, R22, R25, R28, R33, R35, R58, R225): every step keeps it, from every state that
has it. -/
def Obligations.StepKeepsInvariant : Prop :=
  ∀ s t : State, Inv s → step s = .next t → Inv t

/-- The invariant holds right after reset, for every legal instance and for the one of `State.reset`. The instance of
`State.reset` is log entry 1. -/
def Obligations.ResetHasInvariant : Prop :=
  (∀ p : Config.Params, p.wf = true → Inv (State.resetWith p)) ∧ Inv State.reset

/-- R37: what reset leaves, for every instance; the buffers hold their free content, one value for each of the `N` elements.
The free content is log entry 4. -/
def Obligations.ResetValues : Prop :=
  ∀ (p : Config.Params) (s : State), s = State.resetWith p →
    s.cfg = p.cfgReset ∧ (p.wf = true → s.enabled = false) ∧ s.bright = p.brightReset ∧ s.ready = false ∧
    s.clk = false ∧ s.dat = false ∧ s.lat = false ∧ s.gck = false ∧ s.frame = 0 ∧ s.fault = 0 ∧
    s.seq = ⟨.idle, 0, 0⟩ ∧ s.hostop = .none ∧ s.wire = [] ∧ s.par.coef = p.coef ∧
    s.draw.length = p.n ∧ s.tx.length = p.n ∧
    ∀ i < p.n, s.draw.read i = Config.drawReset i ∧ s.tx.read i = Config.txReset i
end

