-- ==== Sys2Proof/Laws/State.lean ====
section
/-! SUPPORT. What each named update of the state leaves in each field, and what `drive` does to the lines. -/

namespace Sys2Proof.Machine

@[simp] theorem State.setReady_par (s : State) (v : Bool) : (s.setReady v).par = s.par := rfl
@[simp] theorem State.setReady_draw (s : State) (v : Bool) : (s.setReady v).draw = s.draw := rfl
@[simp] theorem State.setReady_tx (s : State) (v : Bool) : (s.setReady v).tx = s.tx := rfl
@[simp] theorem State.setReady_cfg (s : State) (v : Bool) : (s.setReady v).cfg = s.cfg := rfl
@[simp] theorem State.setReady_bright (s : State) (v : Bool) : (s.setReady v).bright = s.bright := rfl
@[simp] theorem State.setReady_ready (s : State) (v : Bool) : (s.setReady v).ready = v := rfl
@[simp] theorem State.setReady_clk (s : State) (v : Bool) : (s.setReady v).clk = s.clk := rfl
@[simp] theorem State.setReady_dat (s : State) (v : Bool) : (s.setReady v).dat = s.dat := rfl
@[simp] theorem State.setReady_lat (s : State) (v : Bool) : (s.setReady v).lat = s.lat := rfl
@[simp] theorem State.setReady_gck (s : State) (v : Bool) : (s.setReady v).gck = s.gck := rfl
@[simp] theorem State.setReady_frame (s : State) (v : Bool) : (s.setReady v).frame = s.frame := rfl
@[simp] theorem State.setReady_fault (s : State) (v : Bool) : (s.setReady v).fault = s.fault := rfl
@[simp] theorem State.setReady_seq (s : State) (v : Bool) : (s.setReady v).seq = s.seq := rfl
@[simp] theorem State.setReady_hostop (s : State) (v : Bool) : (s.setReady v).hostop = s.hostop := rfl
@[simp] theorem State.setReady_wire (s : State) (v : Bool) : (s.setReady v).wire = s.wire := rfl
@[simp] theorem State.setReady_resp (s : State) (v : Bool) : (s.setReady v).resp = s.resp := rfl
@[simp] theorem State.setReady_cmds (s : State) (v : Bool) : (s.setReady v).cmds = s.cmds := rfl
@[simp] theorem State.setReady_ticks (s : State) (v : Bool) : (s.setReady v).ticks = s.ticks := rfl
@[simp] theorem State.setReady_order (s : State) (v : Bool) : (s.setReady v).order = s.order := rfl

@[simp] theorem State.setDraw_par (s : State) (m : Memory) : (s.setDraw m).par = s.par := rfl
@[simp] theorem State.setDraw_draw (s : State) (m : Memory) : (s.setDraw m).draw = m := rfl
@[simp] theorem State.setDraw_tx (s : State) (m : Memory) : (s.setDraw m).tx = s.tx := rfl
@[simp] theorem State.setDraw_cfg (s : State) (m : Memory) : (s.setDraw m).cfg = s.cfg := rfl
@[simp] theorem State.setDraw_bright (s : State) (m : Memory) : (s.setDraw m).bright = s.bright := rfl
@[simp] theorem State.setDraw_ready (s : State) (m : Memory) : (s.setDraw m).ready = s.ready := rfl
@[simp] theorem State.setDraw_clk (s : State) (m : Memory) : (s.setDraw m).clk = s.clk := rfl
@[simp] theorem State.setDraw_dat (s : State) (m : Memory) : (s.setDraw m).dat = s.dat := rfl
@[simp] theorem State.setDraw_lat (s : State) (m : Memory) : (s.setDraw m).lat = s.lat := rfl
@[simp] theorem State.setDraw_gck (s : State) (m : Memory) : (s.setDraw m).gck = s.gck := rfl
@[simp] theorem State.setDraw_frame (s : State) (m : Memory) : (s.setDraw m).frame = s.frame := rfl
@[simp] theorem State.setDraw_fault (s : State) (m : Memory) : (s.setDraw m).fault = s.fault := rfl
@[simp] theorem State.setDraw_seq (s : State) (m : Memory) : (s.setDraw m).seq = s.seq := rfl
@[simp] theorem State.setDraw_hostop (s : State) (m : Memory) : (s.setDraw m).hostop = s.hostop := rfl
@[simp] theorem State.setDraw_wire (s : State) (m : Memory) : (s.setDraw m).wire = s.wire := rfl
@[simp] theorem State.setDraw_resp (s : State) (m : Memory) : (s.setDraw m).resp = s.resp := rfl
@[simp] theorem State.setDraw_cmds (s : State) (m : Memory) : (s.setDraw m).cmds = s.cmds := rfl
@[simp] theorem State.setDraw_ticks (s : State) (m : Memory) : (s.setDraw m).ticks = s.ticks := rfl
@[simp] theorem State.setDraw_order (s : State) (m : Memory) : (s.setDraw m).order = s.order := rfl

@[simp] theorem State.setTx_par (s : State) (m : Memory) : (s.setTx m).par = s.par := rfl
@[simp] theorem State.setTx_draw (s : State) (m : Memory) : (s.setTx m).draw = s.draw := rfl
@[simp] theorem State.setTx_tx (s : State) (m : Memory) : (s.setTx m).tx = m := rfl
@[simp] theorem State.setTx_cfg (s : State) (m : Memory) : (s.setTx m).cfg = s.cfg := rfl
@[simp] theorem State.setTx_bright (s : State) (m : Memory) : (s.setTx m).bright = s.bright := rfl
@[simp] theorem State.setTx_ready (s : State) (m : Memory) : (s.setTx m).ready = s.ready := rfl
@[simp] theorem State.setTx_clk (s : State) (m : Memory) : (s.setTx m).clk = s.clk := rfl
@[simp] theorem State.setTx_dat (s : State) (m : Memory) : (s.setTx m).dat = s.dat := rfl
@[simp] theorem State.setTx_lat (s : State) (m : Memory) : (s.setTx m).lat = s.lat := rfl
@[simp] theorem State.setTx_gck (s : State) (m : Memory) : (s.setTx m).gck = s.gck := rfl
@[simp] theorem State.setTx_frame (s : State) (m : Memory) : (s.setTx m).frame = s.frame := rfl
@[simp] theorem State.setTx_fault (s : State) (m : Memory) : (s.setTx m).fault = s.fault := rfl
@[simp] theorem State.setTx_seq (s : State) (m : Memory) : (s.setTx m).seq = s.seq := rfl
@[simp] theorem State.setTx_hostop (s : State) (m : Memory) : (s.setTx m).hostop = s.hostop := rfl
@[simp] theorem State.setTx_wire (s : State) (m : Memory) : (s.setTx m).wire = s.wire := rfl
@[simp] theorem State.setTx_resp (s : State) (m : Memory) : (s.setTx m).resp = s.resp := rfl
@[simp] theorem State.setTx_cmds (s : State) (m : Memory) : (s.setTx m).cmds = s.cmds := rfl
@[simp] theorem State.setTx_ticks (s : State) (m : Memory) : (s.setTx m).ticks = s.ticks := rfl
@[simp] theorem State.setTx_order (s : State) (m : Memory) : (s.setTx m).order = s.order := rfl

@[simp] theorem State.setCfg_par (s : State) (v : Word) : (s.setCfg v).par = s.par := rfl
@[simp] theorem State.setCfg_draw (s : State) (v : Word) : (s.setCfg v).draw = s.draw := rfl
@[simp] theorem State.setCfg_tx (s : State) (v : Word) : (s.setCfg v).tx = s.tx := rfl
@[simp] theorem State.setCfg_cfg (s : State) (v : Word) : (s.setCfg v).cfg = v := rfl
@[simp] theorem State.setCfg_bright (s : State) (v : Word) : (s.setCfg v).bright = s.bright := rfl
@[simp] theorem State.setCfg_ready (s : State) (v : Word) : (s.setCfg v).ready = s.ready := rfl
@[simp] theorem State.setCfg_clk (s : State) (v : Word) : (s.setCfg v).clk = s.clk := rfl
@[simp] theorem State.setCfg_dat (s : State) (v : Word) : (s.setCfg v).dat = s.dat := rfl
@[simp] theorem State.setCfg_lat (s : State) (v : Word) : (s.setCfg v).lat = s.lat := rfl
@[simp] theorem State.setCfg_gck (s : State) (v : Word) : (s.setCfg v).gck = s.gck := rfl
@[simp] theorem State.setCfg_frame (s : State) (v : Word) : (s.setCfg v).frame = s.frame := rfl
@[simp] theorem State.setCfg_fault (s : State) (v : Word) : (s.setCfg v).fault = s.fault := rfl
@[simp] theorem State.setCfg_seq (s : State) (v : Word) : (s.setCfg v).seq = s.seq := rfl
@[simp] theorem State.setCfg_hostop (s : State) (v : Word) : (s.setCfg v).hostop = s.hostop := rfl
@[simp] theorem State.setCfg_wire (s : State) (v : Word) : (s.setCfg v).wire = s.wire := rfl
@[simp] theorem State.setCfg_resp (s : State) (v : Word) : (s.setCfg v).resp = s.resp := rfl
@[simp] theorem State.setCfg_cmds (s : State) (v : Word) : (s.setCfg v).cmds = s.cmds := rfl
@[simp] theorem State.setCfg_ticks (s : State) (v : Word) : (s.setCfg v).ticks = s.ticks := rfl
@[simp] theorem State.setCfg_order (s : State) (v : Word) : (s.setCfg v).order = s.order := rfl

@[simp] theorem State.setBright_par (s : State) (v : Word) : (s.setBright v).par = s.par := rfl
@[simp] theorem State.setBright_draw (s : State) (v : Word) : (s.setBright v).draw = s.draw := rfl
@[simp] theorem State.setBright_tx (s : State) (v : Word) : (s.setBright v).tx = s.tx := rfl
@[simp] theorem State.setBright_cfg (s : State) (v : Word) : (s.setBright v).cfg = s.cfg := rfl
@[simp] theorem State.setBright_bright (s : State) (v : Word) : (s.setBright v).bright = v := rfl
@[simp] theorem State.setBright_ready (s : State) (v : Word) : (s.setBright v).ready = s.ready := rfl
@[simp] theorem State.setBright_clk (s : State) (v : Word) : (s.setBright v).clk = s.clk := rfl
@[simp] theorem State.setBright_dat (s : State) (v : Word) : (s.setBright v).dat = s.dat := rfl
@[simp] theorem State.setBright_lat (s : State) (v : Word) : (s.setBright v).lat = s.lat := rfl
@[simp] theorem State.setBright_gck (s : State) (v : Word) : (s.setBright v).gck = s.gck := rfl
@[simp] theorem State.setBright_frame (s : State) (v : Word) : (s.setBright v).frame = s.frame := rfl
@[simp] theorem State.setBright_fault (s : State) (v : Word) : (s.setBright v).fault = s.fault := rfl
@[simp] theorem State.setBright_seq (s : State) (v : Word) : (s.setBright v).seq = s.seq := rfl
@[simp] theorem State.setBright_hostop (s : State) (v : Word) : (s.setBright v).hostop = s.hostop := rfl
@[simp] theorem State.setBright_wire (s : State) (v : Word) : (s.setBright v).wire = s.wire := rfl
@[simp] theorem State.setBright_resp (s : State) (v : Word) : (s.setBright v).resp = s.resp := rfl
@[simp] theorem State.setBright_cmds (s : State) (v : Word) : (s.setBright v).cmds = s.cmds := rfl
@[simp] theorem State.setBright_ticks (s : State) (v : Word) : (s.setBright v).ticks = s.ticks := rfl
@[simp] theorem State.setBright_order (s : State) (v : Word) : (s.setBright v).order = s.order := rfl

@[simp] theorem State.countFrame_par (s : State) : s.countFrame.par = s.par := rfl
@[simp] theorem State.countFrame_draw (s : State) : s.countFrame.draw = s.draw := rfl
@[simp] theorem State.countFrame_tx (s : State) : s.countFrame.tx = s.tx := rfl
@[simp] theorem State.countFrame_cfg (s : State) : s.countFrame.cfg = s.cfg := rfl
@[simp] theorem State.countFrame_bright (s : State) : s.countFrame.bright = s.bright := rfl
@[simp] theorem State.countFrame_ready (s : State) : s.countFrame.ready = s.ready := rfl
@[simp] theorem State.countFrame_clk (s : State) : s.countFrame.clk = s.clk := rfl
@[simp] theorem State.countFrame_dat (s : State) : s.countFrame.dat = s.dat := rfl
@[simp] theorem State.countFrame_lat (s : State) : s.countFrame.lat = s.lat := rfl
@[simp] theorem State.countFrame_gck (s : State) : s.countFrame.gck = s.gck := rfl
@[simp] theorem State.countFrame_frame (s : State) : s.countFrame.frame = s.frame + 1 := rfl
@[simp] theorem State.countFrame_fault (s : State) : s.countFrame.fault = s.fault := rfl
@[simp] theorem State.countFrame_seq (s : State) : s.countFrame.seq = s.seq := rfl
@[simp] theorem State.countFrame_hostop (s : State) : s.countFrame.hostop = s.hostop := rfl
@[simp] theorem State.countFrame_wire (s : State) : s.countFrame.wire = s.wire := rfl
@[simp] theorem State.countFrame_resp (s : State) : s.countFrame.resp = s.resp := rfl
@[simp] theorem State.countFrame_cmds (s : State) : s.countFrame.cmds = s.cmds := rfl
@[simp] theorem State.countFrame_ticks (s : State) : s.countFrame.ticks = s.ticks := rfl
@[simp] theorem State.countFrame_order (s : State) : s.countFrame.order = s.order := rfl

@[simp] theorem State.setSeq_par (s : State) (c : Cursor) : (s.setSeq c).par = s.par := rfl
@[simp] theorem State.setSeq_draw (s : State) (c : Cursor) : (s.setSeq c).draw = s.draw := rfl
@[simp] theorem State.setSeq_tx (s : State) (c : Cursor) : (s.setSeq c).tx = s.tx := rfl
@[simp] theorem State.setSeq_cfg (s : State) (c : Cursor) : (s.setSeq c).cfg = s.cfg := rfl
@[simp] theorem State.setSeq_bright (s : State) (c : Cursor) : (s.setSeq c).bright = s.bright := rfl
@[simp] theorem State.setSeq_ready (s : State) (c : Cursor) : (s.setSeq c).ready = s.ready := rfl
@[simp] theorem State.setSeq_clk (s : State) (c : Cursor) : (s.setSeq c).clk = s.clk := rfl
@[simp] theorem State.setSeq_dat (s : State) (c : Cursor) : (s.setSeq c).dat = s.dat := rfl
@[simp] theorem State.setSeq_lat (s : State) (c : Cursor) : (s.setSeq c).lat = s.lat := rfl
@[simp] theorem State.setSeq_gck (s : State) (c : Cursor) : (s.setSeq c).gck = s.gck := rfl
@[simp] theorem State.setSeq_frame (s : State) (c : Cursor) : (s.setSeq c).frame = s.frame := rfl
@[simp] theorem State.setSeq_fault (s : State) (c : Cursor) : (s.setSeq c).fault = s.fault := rfl
@[simp] theorem State.setSeq_seq (s : State) (c : Cursor) : (s.setSeq c).seq = c := rfl
@[simp] theorem State.setSeq_hostop (s : State) (c : Cursor) : (s.setSeq c).hostop = s.hostop := rfl
@[simp] theorem State.setSeq_wire (s : State) (c : Cursor) : (s.setSeq c).wire = s.wire := rfl
@[simp] theorem State.setSeq_resp (s : State) (c : Cursor) : (s.setSeq c).resp = s.resp := rfl
@[simp] theorem State.setSeq_cmds (s : State) (c : Cursor) : (s.setSeq c).cmds = s.cmds := rfl
@[simp] theorem State.setSeq_ticks (s : State) (c : Cursor) : (s.setSeq c).ticks = s.ticks := rfl
@[simp] theorem State.setSeq_order (s : State) (c : Cursor) : (s.setSeq c).order = s.order := rfl

@[simp] theorem State.setHostOp_par (s : State) (h : HostOp) : (s.setHostOp h).par = s.par := rfl
@[simp] theorem State.setHostOp_draw (s : State) (h : HostOp) : (s.setHostOp h).draw = s.draw := rfl
@[simp] theorem State.setHostOp_tx (s : State) (h : HostOp) : (s.setHostOp h).tx = s.tx := rfl
@[simp] theorem State.setHostOp_cfg (s : State) (h : HostOp) : (s.setHostOp h).cfg = s.cfg := rfl
@[simp] theorem State.setHostOp_bright (s : State) (h : HostOp) : (s.setHostOp h).bright = s.bright := rfl
@[simp] theorem State.setHostOp_ready (s : State) (h : HostOp) : (s.setHostOp h).ready = s.ready := rfl
@[simp] theorem State.setHostOp_clk (s : State) (h : HostOp) : (s.setHostOp h).clk = s.clk := rfl
@[simp] theorem State.setHostOp_dat (s : State) (h : HostOp) : (s.setHostOp h).dat = s.dat := rfl
@[simp] theorem State.setHostOp_lat (s : State) (h : HostOp) : (s.setHostOp h).lat = s.lat := rfl
@[simp] theorem State.setHostOp_gck (s : State) (h : HostOp) : (s.setHostOp h).gck = s.gck := rfl
@[simp] theorem State.setHostOp_frame (s : State) (h : HostOp) : (s.setHostOp h).frame = s.frame := rfl
@[simp] theorem State.setHostOp_fault (s : State) (h : HostOp) : (s.setHostOp h).fault = s.fault := rfl
@[simp] theorem State.setHostOp_seq (s : State) (h : HostOp) : (s.setHostOp h).seq = s.seq := rfl
@[simp] theorem State.setHostOp_hostop (s : State) (h : HostOp) : (s.setHostOp h).hostop = h := rfl
@[simp] theorem State.setHostOp_wire (s : State) (h : HostOp) : (s.setHostOp h).wire = s.wire := rfl
@[simp] theorem State.setHostOp_resp (s : State) (h : HostOp) : (s.setHostOp h).resp = s.resp := rfl
@[simp] theorem State.setHostOp_cmds (s : State) (h : HostOp) : (s.setHostOp h).cmds = s.cmds := rfl
@[simp] theorem State.setHostOp_ticks (s : State) (h : HostOp) : (s.setHostOp h).ticks = s.ticks := rfl
@[simp] theorem State.setHostOp_order (s : State) (h : HostOp) : (s.setHostOp h).order = s.order := rfl

@[simp] theorem State.respond_par (s : State) (v : Word) : (s.respond v).par = s.par := rfl
@[simp] theorem State.respond_draw (s : State) (v : Word) : (s.respond v).draw = s.draw := rfl
@[simp] theorem State.respond_tx (s : State) (v : Word) : (s.respond v).tx = s.tx := rfl
@[simp] theorem State.respond_cfg (s : State) (v : Word) : (s.respond v).cfg = s.cfg := rfl
@[simp] theorem State.respond_bright (s : State) (v : Word) : (s.respond v).bright = s.bright := rfl
@[simp] theorem State.respond_ready (s : State) (v : Word) : (s.respond v).ready = s.ready := rfl
@[simp] theorem State.respond_clk (s : State) (v : Word) : (s.respond v).clk = s.clk := rfl
@[simp] theorem State.respond_dat (s : State) (v : Word) : (s.respond v).dat = s.dat := rfl
@[simp] theorem State.respond_lat (s : State) (v : Word) : (s.respond v).lat = s.lat := rfl
@[simp] theorem State.respond_gck (s : State) (v : Word) : (s.respond v).gck = s.gck := rfl
@[simp] theorem State.respond_frame (s : State) (v : Word) : (s.respond v).frame = s.frame := rfl
@[simp] theorem State.respond_fault (s : State) (v : Word) : (s.respond v).fault = s.fault := rfl
@[simp] theorem State.respond_seq (s : State) (v : Word) : (s.respond v).seq = s.seq := rfl
@[simp] theorem State.respond_hostop (s : State) (v : Word) : (s.respond v).hostop = s.hostop := rfl
@[simp] theorem State.respond_wire (s : State) (v : Word) : (s.respond v).wire = s.wire := rfl
@[simp] theorem State.respond_resp (s : State) (v : Word) : (s.respond v).resp = s.resp ++ [v] := rfl
@[simp] theorem State.respond_cmds (s : State) (v : Word) : (s.respond v).cmds = s.cmds := rfl
@[simp] theorem State.respond_ticks (s : State) (v : Word) : (s.respond v).ticks = s.ticks := rfl
@[simp] theorem State.respond_order (s : State) (v : Word) : (s.respond v).order = s.order := rfl

@[simp] theorem State.setCmds_par (s : State) (cs : List Cmd) : (s.setCmds cs).par = s.par := rfl
@[simp] theorem State.setCmds_draw (s : State) (cs : List Cmd) : (s.setCmds cs).draw = s.draw := rfl
@[simp] theorem State.setCmds_tx (s : State) (cs : List Cmd) : (s.setCmds cs).tx = s.tx := rfl
@[simp] theorem State.setCmds_cfg (s : State) (cs : List Cmd) : (s.setCmds cs).cfg = s.cfg := rfl
@[simp] theorem State.setCmds_bright (s : State) (cs : List Cmd) : (s.setCmds cs).bright = s.bright := rfl
@[simp] theorem State.setCmds_ready (s : State) (cs : List Cmd) : (s.setCmds cs).ready = s.ready := rfl
@[simp] theorem State.setCmds_clk (s : State) (cs : List Cmd) : (s.setCmds cs).clk = s.clk := rfl
@[simp] theorem State.setCmds_dat (s : State) (cs : List Cmd) : (s.setCmds cs).dat = s.dat := rfl
@[simp] theorem State.setCmds_lat (s : State) (cs : List Cmd) : (s.setCmds cs).lat = s.lat := rfl
@[simp] theorem State.setCmds_gck (s : State) (cs : List Cmd) : (s.setCmds cs).gck = s.gck := rfl
@[simp] theorem State.setCmds_frame (s : State) (cs : List Cmd) : (s.setCmds cs).frame = s.frame := rfl
@[simp] theorem State.setCmds_fault (s : State) (cs : List Cmd) : (s.setCmds cs).fault = s.fault := rfl
@[simp] theorem State.setCmds_seq (s : State) (cs : List Cmd) : (s.setCmds cs).seq = s.seq := rfl
@[simp] theorem State.setCmds_hostop (s : State) (cs : List Cmd) : (s.setCmds cs).hostop = s.hostop := rfl
@[simp] theorem State.setCmds_wire (s : State) (cs : List Cmd) : (s.setCmds cs).wire = s.wire := rfl
@[simp] theorem State.setCmds_resp (s : State) (cs : List Cmd) : (s.setCmds cs).resp = s.resp := rfl
@[simp] theorem State.setCmds_cmds (s : State) (cs : List Cmd) : (s.setCmds cs).cmds = cs := rfl
@[simp] theorem State.setCmds_ticks (s : State) (cs : List Cmd) : (s.setCmds cs).ticks = s.ticks := rfl
@[simp] theorem State.setCmds_order (s : State) (cs : List Cmd) : (s.setCmds cs).order = s.order := rfl

@[simp] theorem State.setTicks_par (s : State) (ts : List Nat) : (s.setTicks ts).par = s.par := rfl
@[simp] theorem State.setTicks_draw (s : State) (ts : List Nat) : (s.setTicks ts).draw = s.draw := rfl
@[simp] theorem State.setTicks_tx (s : State) (ts : List Nat) : (s.setTicks ts).tx = s.tx := rfl
@[simp] theorem State.setTicks_cfg (s : State) (ts : List Nat) : (s.setTicks ts).cfg = s.cfg := rfl
@[simp] theorem State.setTicks_bright (s : State) (ts : List Nat) : (s.setTicks ts).bright = s.bright := rfl
@[simp] theorem State.setTicks_ready (s : State) (ts : List Nat) : (s.setTicks ts).ready = s.ready := rfl
@[simp] theorem State.setTicks_clk (s : State) (ts : List Nat) : (s.setTicks ts).clk = s.clk := rfl
@[simp] theorem State.setTicks_dat (s : State) (ts : List Nat) : (s.setTicks ts).dat = s.dat := rfl
@[simp] theorem State.setTicks_lat (s : State) (ts : List Nat) : (s.setTicks ts).lat = s.lat := rfl
@[simp] theorem State.setTicks_gck (s : State) (ts : List Nat) : (s.setTicks ts).gck = s.gck := rfl
@[simp] theorem State.setTicks_frame (s : State) (ts : List Nat) : (s.setTicks ts).frame = s.frame := rfl
@[simp] theorem State.setTicks_fault (s : State) (ts : List Nat) : (s.setTicks ts).fault = s.fault := rfl
@[simp] theorem State.setTicks_seq (s : State) (ts : List Nat) : (s.setTicks ts).seq = s.seq := rfl
@[simp] theorem State.setTicks_hostop (s : State) (ts : List Nat) : (s.setTicks ts).hostop = s.hostop := rfl
@[simp] theorem State.setTicks_wire (s : State) (ts : List Nat) : (s.setTicks ts).wire = s.wire := rfl
@[simp] theorem State.setTicks_resp (s : State) (ts : List Nat) : (s.setTicks ts).resp = s.resp := rfl
@[simp] theorem State.setTicks_cmds (s : State) (ts : List Nat) : (s.setTicks ts).cmds = s.cmds := rfl
@[simp] theorem State.setTicks_ticks (s : State) (ts : List Nat) : (s.setTicks ts).ticks = ts := rfl
@[simp] theorem State.setTicks_order (s : State) (ts : List Nat) : (s.setTicks ts).order = s.order := rfl

@[simp] theorem State.setOrder_par (s : State) (cs : List Nat) : (s.setOrder cs).par = s.par := rfl
@[simp] theorem State.setOrder_draw (s : State) (cs : List Nat) : (s.setOrder cs).draw = s.draw := rfl
@[simp] theorem State.setOrder_tx (s : State) (cs : List Nat) : (s.setOrder cs).tx = s.tx := rfl
@[simp] theorem State.setOrder_cfg (s : State) (cs : List Nat) : (s.setOrder cs).cfg = s.cfg := rfl
@[simp] theorem State.setOrder_bright (s : State) (cs : List Nat) : (s.setOrder cs).bright = s.bright := rfl
@[simp] theorem State.setOrder_ready (s : State) (cs : List Nat) : (s.setOrder cs).ready = s.ready := rfl
@[simp] theorem State.setOrder_clk (s : State) (cs : List Nat) : (s.setOrder cs).clk = s.clk := rfl
@[simp] theorem State.setOrder_dat (s : State) (cs : List Nat) : (s.setOrder cs).dat = s.dat := rfl
@[simp] theorem State.setOrder_lat (s : State) (cs : List Nat) : (s.setOrder cs).lat = s.lat := rfl
@[simp] theorem State.setOrder_gck (s : State) (cs : List Nat) : (s.setOrder cs).gck = s.gck := rfl
@[simp] theorem State.setOrder_frame (s : State) (cs : List Nat) : (s.setOrder cs).frame = s.frame := rfl
@[simp] theorem State.setOrder_fault (s : State) (cs : List Nat) : (s.setOrder cs).fault = s.fault := rfl
@[simp] theorem State.setOrder_seq (s : State) (cs : List Nat) : (s.setOrder cs).seq = s.seq := rfl
@[simp] theorem State.setOrder_hostop (s : State) (cs : List Nat) : (s.setOrder cs).hostop = s.hostop := rfl
@[simp] theorem State.setOrder_wire (s : State) (cs : List Nat) : (s.setOrder cs).wire = s.wire := rfl
@[simp] theorem State.setOrder_resp (s : State) (cs : List Nat) : (s.setOrder cs).resp = s.resp := rfl
@[simp] theorem State.setOrder_cmds (s : State) (cs : List Nat) : (s.setOrder cs).cmds = s.cmds := rfl
@[simp] theorem State.setOrder_ticks (s : State) (cs : List Nat) : (s.setOrder cs).ticks = s.ticks := rfl
@[simp] theorem State.setOrder_order (s : State) (cs : List Nat) : (s.setOrder cs).order = cs := rfl

@[simp] theorem raise_par (f : FaultCode) (s : State) : (raise f s).par = s.par := rfl
@[simp] theorem raise_draw (f : FaultCode) (s : State) : (raise f s).draw = s.draw := rfl
@[simp] theorem raise_tx (f : FaultCode) (s : State) : (raise f s).tx = s.tx := rfl
@[simp] theorem raise_cfg (f : FaultCode) (s : State) : (raise f s).cfg = s.cfg := rfl
@[simp] theorem raise_bright (f : FaultCode) (s : State) : (raise f s).bright = s.bright := rfl
@[simp] theorem raise_ready (f : FaultCode) (s : State) : (raise f s).ready = s.ready := rfl
@[simp] theorem raise_clk (f : FaultCode) (s : State) : (raise f s).clk = s.clk := rfl
@[simp] theorem raise_dat (f : FaultCode) (s : State) : (raise f s).dat = s.dat := rfl
@[simp] theorem raise_lat (f : FaultCode) (s : State) : (raise f s).lat = s.lat := rfl
@[simp] theorem raise_gck (f : FaultCode) (s : State) : (raise f s).gck = s.gck := rfl
@[simp] theorem raise_frame (f : FaultCode) (s : State) : (raise f s).frame = s.frame := rfl
@[simp] theorem raise_fault (f : FaultCode) (s : State) : (raise f s).fault = s.fault ||| f.mask := rfl
@[simp] theorem raise_seq (f : FaultCode) (s : State) : (raise f s).seq = s.seq := rfl
@[simp] theorem raise_hostop (f : FaultCode) (s : State) : (raise f s).hostop = s.hostop := rfl
@[simp] theorem raise_wire (f : FaultCode) (s : State) : (raise f s).wire = s.wire := rfl
@[simp] theorem raise_resp (f : FaultCode) (s : State) : (raise f s).resp = s.resp := rfl
@[simp] theorem raise_cmds (f : FaultCode) (s : State) : (raise f s).cmds = s.cmds := rfl
@[simp] theorem raise_ticks (f : FaultCode) (s : State) : (raise f s).ticks = s.ticks := rfl
@[simp] theorem raise_order (f : FaultCode) (s : State) : (raise f s).order = s.order := rfl

@[simp] theorem State.countdown_par (s : State) : s.countdown.par = s.par := rfl
@[simp] theorem State.countdown_draw (s : State) : s.countdown.draw = s.draw := rfl
@[simp] theorem State.countdown_tx (s : State) : s.countdown.tx = s.tx := rfl
@[simp] theorem State.countdown_cfg (s : State) : s.countdown.cfg = s.cfg := rfl
@[simp] theorem State.countdown_bright (s : State) : s.countdown.bright = s.bright := rfl
@[simp] theorem State.countdown_ready (s : State) : s.countdown.ready = s.ready := rfl
@[simp] theorem State.countdown_clk (s : State) : s.countdown.clk = s.clk := rfl
@[simp] theorem State.countdown_dat (s : State) : s.countdown.dat = s.dat := rfl
@[simp] theorem State.countdown_lat (s : State) : s.countdown.lat = s.lat := rfl
@[simp] theorem State.countdown_gck (s : State) : s.countdown.gck = s.gck := rfl
@[simp] theorem State.countdown_frame (s : State) : s.countdown.frame = s.frame := rfl
@[simp] theorem State.countdown_fault (s : State) : s.countdown.fault = s.fault := rfl
@[simp] theorem State.countdown_seq (s : State) : s.countdown.seq = s.seq := rfl
@[simp] theorem State.countdown_hostop (s : State) : s.countdown.hostop = s.hostop := rfl
@[simp] theorem State.countdown_wire (s : State) : s.countdown.wire = s.wire := rfl
@[simp] theorem State.countdown_resp (s : State) : s.countdown.resp = s.resp := rfl
@[simp] theorem State.countdown_cmds (s : State) : s.countdown.cmds = s.cmds := rfl
@[simp] theorem State.countdown_ticks (s : State) : s.countdown.ticks = elapse 1 s.ticks := rfl
@[simp] theorem State.countdown_order (s : State) : s.countdown.order = s.order := rfl

@[simp] theorem State.drive_par (s : State) (e : Event) : (s.drive e).par = s.par := by
  rcases e with ⟨_ | _, _⟩ <;> rfl
@[simp] theorem State.drive_draw (s : State) (e : Event) : (s.drive e).draw = s.draw := by
  rcases e with ⟨_ | _, _⟩ <;> rfl
@[simp] theorem State.drive_tx (s : State) (e : Event) : (s.drive e).tx = s.tx := by
  rcases e with ⟨_ | _, _⟩ <;> rfl
@[simp] theorem State.drive_cfg (s : State) (e : Event) : (s.drive e).cfg = s.cfg := by
  rcases e with ⟨_ | _, _⟩ <;> rfl
@[simp] theorem State.drive_bright (s : State) (e : Event) : (s.drive e).bright = s.bright := by
  rcases e with ⟨_ | _, _⟩ <;> rfl
@[simp] theorem State.drive_ready (s : State) (e : Event) : (s.drive e).ready = s.ready := by
  rcases e with ⟨_ | _, _⟩ <;> rfl
@[simp] theorem State.drive_frame (s : State) (e : Event) : (s.drive e).frame = s.frame := by
  rcases e with ⟨_ | _, _⟩ <;> rfl
@[simp] theorem State.drive_fault (s : State) (e : Event) : (s.drive e).fault = s.fault := by
  rcases e with ⟨_ | _, _⟩ <;> rfl
@[simp] theorem State.drive_seq (s : State) (e : Event) : (s.drive e).seq = s.seq := by
  rcases e with ⟨_ | _, _⟩ <;> rfl
@[simp] theorem State.drive_hostop (s : State) (e : Event) : (s.drive e).hostop = s.hostop := by
  rcases e with ⟨_ | _, _⟩ <;> rfl
@[simp] theorem State.drive_wire (s : State) (e : Event) : (s.drive e).wire = s.wire ++ [e] := by
  rcases e with ⟨_ | _, _⟩ <;> rfl
@[simp] theorem State.drive_resp (s : State) (e : Event) : (s.drive e).resp = s.resp := by
  rcases e with ⟨_ | _, _⟩ <;> rfl
@[simp] theorem State.drive_cmds (s : State) (e : Event) : (s.drive e).cmds = s.cmds := by
  rcases e with ⟨_ | _, _⟩ <;> rfl
@[simp] theorem State.drive_ticks (s : State) (e : Event) : (s.drive e).ticks = s.ticks := by
  rcases e with ⟨_ | _, _⟩ <;> rfl
@[simp] theorem State.drive_order (s : State) (e : Event) : (s.drive e).order = s.order := by
  rcases e with ⟨_ | _, _⟩ <;> rfl
@[simp] theorem State.drive_clk_clk (s : State) (v : Bool) : (s.drive ⟨.clk, v⟩).clk = v := rfl
@[simp] theorem State.drive_clk_dat (s : State) (v : Bool) : (s.drive ⟨.clk, v⟩).dat = s.dat := rfl
@[simp] theorem State.drive_clk_lat (s : State) (v : Bool) : (s.drive ⟨.clk, v⟩).lat = s.lat := rfl
@[simp] theorem State.drive_clk_gck (s : State) (v : Bool) : (s.drive ⟨.clk, v⟩).gck = s.gck := rfl
@[simp] theorem State.drive_dat_clk (s : State) (v : Bool) : (s.drive ⟨.dat, v⟩).clk = s.clk := rfl
@[simp] theorem State.drive_dat_dat (s : State) (v : Bool) : (s.drive ⟨.dat, v⟩).dat = v := rfl
@[simp] theorem State.drive_dat_lat (s : State) (v : Bool) : (s.drive ⟨.dat, v⟩).lat = s.lat := rfl
@[simp] theorem State.drive_dat_gck (s : State) (v : Bool) : (s.drive ⟨.dat, v⟩).gck = s.gck := rfl
@[simp] theorem State.drive_lat_clk (s : State) (v : Bool) : (s.drive ⟨.lat, v⟩).clk = s.clk := rfl
@[simp] theorem State.drive_lat_dat (s : State) (v : Bool) : (s.drive ⟨.lat, v⟩).dat = s.dat := rfl
@[simp] theorem State.drive_lat_lat (s : State) (v : Bool) : (s.drive ⟨.lat, v⟩).lat = v := rfl
@[simp] theorem State.drive_lat_gck (s : State) (v : Bool) : (s.drive ⟨.lat, v⟩).gck = s.gck := rfl
@[simp] theorem State.drive_gck_clk (s : State) (v : Bool) : (s.drive ⟨.gck, v⟩).clk = s.clk := rfl
@[simp] theorem State.drive_gck_dat (s : State) (v : Bool) : (s.drive ⟨.gck, v⟩).dat = s.dat := rfl
@[simp] theorem State.drive_gck_lat (s : State) (v : Bool) : (s.drive ⟨.gck, v⟩).lat = s.lat := rfl
@[simp] theorem State.drive_gck_gck (s : State) (v : Bool) : (s.drive ⟨.gck, v⟩).gck = v := rfl

end Sys2Proof.Machine
end

