-- ==== Sys2Proof/Laws/Ops.lean ====
section
/-! SUPPORT. One lemma for each shared operation that says once what it can do. -/

namespace Sys2Proof.Machine

/-! ### Sequencing -/

@[simp] theorem andThen_next (s : State) (f : State → Result) : andThen (.next s) f = f s := rfl
@[simp] theorem andThen_fault (e : Fault) (f : State → Result) : andThen (.fault e) f = .fault e := rfl
@[simp] theorem andThen_refused (e : Refusal) (f : State → Result) : andThen (.refused e) f = .refused e := rfl

/-- A sequence reaches a next state only through a next state of its first part. -/
theorem andThen_eq_next {r : Result} {f : State → Result} {t : State} :
    andThen r f = .next t ↔ ∃ u, r = .next u ∧ f u = .next t := by
  cases r <;> simp [andThen]

/-- A sequence refuses only where a part refuses. -/
theorem andThen_eq_refused {r : Result} {f : State → Result} {e : Refusal} :
    andThen r f = .refused e ↔ r = .refused e ∨ ∃ u, r = .next u ∧ f u = .refused e := by
  cases r <;> simp [andThen]

/-- A sequence faults where its first part does, or after it. -/
theorem andThen_eq_fault {r : Result} {f : State → Result} {e : Fault} :
    andThen r f = .fault e ↔ r = .fault e ∨ ∃ u, r = .next u ∧ f u = .fault e := by
  cases r <;> simp [andThen]

theorem andThen_assoc (r : Result) (f g : State → Result) :
    andThen (andThen r f) g = andThen r (fun s => andThen (f s) g) := by
  cases r <;> rfl

/-! ### Buffers -/

@[simp] theorem Memory.write_length (m : Memory) (i : Nat) (v : Word) : (m.write i v).length = m.length := by
  simp [Memory.write]

/-- Every write keeps a buffer's canonical form. -/
theorem Memory.write_wf {n : Nat} {m : Memory} (h : m.wf n = true) (i : Nat) (v : Word) : (m.write i v).wf n = true := by
  simpa [Memory.wf] using h

theorem Memory.wf_length {n : Nat} {m : Memory} (h : m.wf n = true) : m.length = n := by
  simpa [Memory.wf] using h

theorem Memory.read_write_self {m : Memory} {i : Nat} (h : i < m.length) (v : Word) : (m.write i v).read i = v := by
  simp [Memory.read, Memory.write, h]

theorem Memory.read_write_of_ne {m : Memory} {i j : Nat} (h : i ≠ j) (v : Word) :
    (m.write i v).read j = m.read j := by
  simp [Memory.read, Memory.write, h]

/-- The reset buffers are in canonical form. -/
theorem reset_buffers_wf (p : Config.Params) :
    (State.resetWith p).draw.wf p.n = true ∧ (State.resetWith p).tx.wf p.n = true := by
  simp [State.resetWith, Memory.wf]

/-! ### The tick schedule -/

theorem quiet_mono {s : State} {m k : Nat} (h : s.quiet m = true) (hk : k ≤ m) : s.quiet k = true := by
  unfold State.quiet at *
  split at h <;> simp_all
  omega

theorem tickDue_eq_not_quiet (s : State) : tickDue s = !s.quiet 1 := by
  unfold tickDue State.quiet
  split <;> rename_i h
  · simp [h]
  · rcases hs : s.ticks with _ | ⟨_ | k, r⟩ <;> simp_all

@[simp] theorem elapse_zero (ts : List Nat) : elapse 0 ts = ts := by cases ts <;> simp [elapse]

theorem elapse_elapse (a b : Nat) (ts : List Nat) : elapse b (elapse a ts) = elapse (a + b) ts := by
  cases ts <;> simp [elapse, Nat.sub_sub]

/-- A stretch free of TICKs, one micro-step later, is one shorter. -/
theorem quiet_of_ticks_elapse {s t : State} {a b : Nat} (h : s.quiet (a + b) = true) (ht : t.ticks = elapse a s.ticks) :
    t.quiet b = true := by
  unfold State.quiet at *
  rw [ht]
  cases hs : s.ticks <;> simp_all [elapse]
  omega

/-- Without a due TICK, serving the schedule does nothing. -/
theorem serveTicks_of_quiet {s : State} (h : s.quiet 1 = true) : serveTicks s.ticks s = .next s := by
  unfold State.quiet at h
  rcases hs : s.ticks with _ | ⟨_ | k, r⟩
  · simp [serveTicks]
  · simp [hs] at h
  · simp [serveTicks]

/-- A micro-step that no TICK precedes. -/
theorem micro_of_quiet {f : State → State} {s : State} (h : s.quiet 1 = true) :
    micro f s = .next (f s).countdown := by
  simp [micro, serveTicks_of_quiet h]

/-! ### TICK -/

/-- What a TICK leaves alone (R188, R38). -/
structure TickKeeps (s t : State) : Prop where
  par : t.par = s.par
  draw : t.draw = s.draw
  tx : t.tx = s.tx
  cfg : t.cfg = s.cfg
  bright : t.bright = s.bright
  gck : t.gck = s.gck
  fault : t.fault = s.fault
  hostop : t.hostop = s.hostop
  resp : t.resp = s.resp
  cmds : t.cmds = s.cmds
  order : t.order = s.order

theorem TickKeeps.refl (s : State) : TickKeeps s s := ⟨rfl, rfl, rfl, rfl, rfl, rfl, rfl, rfl, rfl, rfl, rfl⟩

theorem TickKeeps.trans {s t u : State} (h : TickKeeps s t) (k : TickKeeps t u) : TickKeeps s u :=
  ⟨k.par.trans h.par, k.draw.trans h.draw, k.tx.trans h.tx, k.cfg.trans h.cfg, k.bright.trans h.bright,
    k.gck.trans h.gck, k.fault.trans h.fault, k.hostop.trans h.hostop, k.resp.trans h.resp, k.cmds.trans h.cmds,
    k.order.trans h.order⟩

/-- The events of serial words drive the three serial lines only (R91). -/
theorem wordSteps_line {ph : Phase} {w : Nat} {nxt : Cursor} {v : Word} {k : Nat} {e : Event × Cursor}
    (h : e ∈ wordSteps ph w nxt v k) : e.1.line ≠ .gck := by
  simp only [wordSteps, bitEvents, List.mem_append, List.mem_flatMap, List.mem_map] at h
  rcases h with ⟨t, -, e', he', rfl⟩ | h
  · rcases he' with (he' | he') | he'
    · simp at he'; subst he'; simp
    · split at he' <;> simp at he'
      subst he'; simp
    · simp at he'
      rcases he' with rfl | rfl <;> simp
  · simp at h
    rcases h with rfl | rfl <;> simp

/-- The events of a word's steps are `put_word`'s (R150). -/
theorem wordSteps_events (ph : Phase) (w : Nat) (nxt : Cursor) (v : Word) (k : Nat) :
    (wordSteps ph w nxt v k).map Prod.fst = wordEvents v k := by
  simp [wordSteps, wordEvents, List.map_flatMap, Function.comp_def]

theorem wordSteps_length (ph : Phase) (w : Nat) (nxt : Cursor) (v : Word) (k : Nat) :
    (wordSteps ph w nxt v k).length = (wordEvents v k).length := by
  rw [← wordSteps_events ph w nxt v k, List.length_map]

/-- The cursor moves to the next word's start with the closing events of a word (R28). -/
theorem wordSteps_last (ph : Phase) (w : Nat) (nxt : Cursor) (v : Word) (k : Nat) :
    ∃ es, wordSteps ph w nxt v k = es ++ [(⟨.lat, false⟩, nxt), (⟨.clk, false⟩, nxt)] := ⟨_, rfl⟩

theorem sendPins_append (xs ys : List (Event × Cursor)) (s : State) :
    sendPins (xs ++ ys) s = sendPins ys (sendPins xs s) := by
  induction xs generalizing s with
  | nil => rfl
  | cons e xs ih => simp [sendPins, ih]

theorem drive_levels (s : State) (e : Event) : (s.drive e).levels = s.levels.after e := by
  rcases e with ⟨_ | _, _⟩ <;> rfl

/-- Everything pin events in a row do: the wire trace gets them, the lines take the levels of their replay, the cursor the
last one; nothing else changes. -/
theorem sendPins_spec (es : List (Event × Cursor)) (s : State) :
    sendPins es s =
      { s with
        wire := s.wire ++ es.map Prod.fst
        clk := (replay s.levels (es.map Prod.fst)).clk
        dat := (replay s.levels (es.map Prod.fst)).dat
        lat := (replay s.levels (es.map Prod.fst)).lat
        gck := (replay s.levels (es.map Prod.fst)).gck
        seq := ((es.map Prod.snd).getLast?).getD s.seq } := by
  induction es generalizing s with
  | nil => simp [sendPins, replay, State.levels]
  | cons e es ih =>
    rcases e with ⟨⟨l, v⟩, c⟩
    simp only [sendPins, ih]
    cases l <;>
      simp [sendPin, State.drive, State.setSeq, replay, Levels.after, State.levels, List.getLast?_cons]

/-- Events that leave the grayscale clock alone leave its level. -/
theorem replay_gck {es : List Event} (h : ∀ e ∈ es, e.line ≠ .gck) (l : Levels) : (replay l es).gck = l.gck := by
  induction es generalizing l with
  | nil => rfl
  | cons e es ih =>
    rw [replay, ih (fun x hx => h x (List.mem_cons_of_mem _ hx))]
    have := h e (List.mem_cons_self)
    rcases e with ⟨_ | _, _⟩ <;> simp_all [Levels.after]

theorem replay_append (l : Levels) (xs ys : List Event) : replay l (xs ++ ys) = replay (replay l xs) ys := by
  induction xs generalizing l with
  | nil => rfl
  | cons e xs ih => simp [replay, ih]

/-- The lines after one `put_word`: clock and latch low, the data line at the word's bit 0 (R150, R225). -/
theorem replay_wordEvents (v : Word) (k : Nat) (l : Levels) :
    replay l (wordEvents v k) = ⟨false, v.getLsbD 0, false, l.gck⟩ := by
  have hg : (replay l (wordEvents v k)).gck = l.gck := by
    apply replay_gck
    intro e he
    rw [← wordSteps_events .idle 0 .idle] at he
    obtain ⟨x, hx, rfl⟩ := List.mem_map.1 he
    exact wordSteps_line hx
  have key : ∃ es, wordEvents v k = es ++ [⟨.dat, v.getLsbD 0⟩, ⟨.clk, true⟩, ⟨.lat, false⟩, ⟨.clk, false⟩] := by
    refine ⟨(List.range 15).flatMap (bitEvents v k) ++ ([⟨.clk, false⟩] ++
      (if latchRises k 15 then [⟨.lat, true⟩] else [])), ?_⟩
    have : List.range Config.wordBits = List.range 15 ++ [15] := by decide
    simp [wordEvents, this, bitEvents]
  obtain ⟨es, hes⟩ := key
  rw [hes, replay_append] at hg ⊢
  rw [← hg]
  simp [replay, Levels.after]

/-- Everything `sendPins` does with one word's steps. -/
theorem sendPins_wordSteps (ph : Phase) (w : Nat) (nxt : Cursor) (v : Word) (k : Nat) (s : State) :
    sendPins (wordSteps ph w nxt v k) s =
      { s with wire := s.wire ++ wordEvents v k, clk := false, dat := v.getLsbD 0, lat := false, seq := nxt } := by
  rw [sendPins_spec, wordSteps_events, replay_wordEvents]
  obtain ⟨es, hes⟩ := wordSteps_last ph w nxt v k
  simp [hes, State.levels]

/-- A slot's value depends on `TX` and `CFG` only. -/
theorem Slot.value_congr {sl : Slot} {s t : State} (htx : t.tx = s.tx) (hcfg : t.cfg = s.cfg) :
    sl.value t = sl.value s := by
  cases sl with | mk source => cases source <;> simp [Slot.value, htx, hcfg]

/-- The wire words of slots. -/
def slotWords (s : State) (sls : List Slot) : List (Word × Nat) := sls.map (fun sl => (sl.value s, sl.k))

/-- Everything words in a row do: the wire trace gets their events, clock and latch end low, the data line at the last
word's bit 0, the cursor idle. -/
theorem sendSlots_spec (sls : List Slot) (s : State) (h : sls ≠ []) :
    sendSlots sls s =
      { s with
        wire := s.wire ++ wordsEvents (slotWords s sls)
        clk := false
        dat := ((sls.getLast h).value s).getLsbD 0
        lat := false
        seq := .idle } := by
  induction sls generalizing s with
  | nil => exact absurd rfl h
  | cons sl rest ih =>
    have hv : ∀ x : Slot, x.value (sendPins (slotSteps sl rest s) s) = x.value s := fun x => by
      apply Slot.value_congr <;> simp [slotSteps, sendPins_wordSteps]
    cases rest with
    | nil => simp [sendSlots, slotSteps, sendPins_wordSteps, cursorOf, slotWords, wordsEvents]
    | cons sl' rest =>
      rw [sendSlots, ih _ (by simp)]
      simp only [slotWords, hv]
      simp [slotSteps, sendPins_wordSteps, wordsEvents]

theorem framePlan_ne_nil (p : Config.Params) : framePlan p ≠ [] := by simp [framePlan]

/-- Everything TRANSMIT does, undivided (R156): the plan's words on the wire, all serial lines low after the zero end
word, `READY` cleared. -/
theorem transmit_spec (s : State) :
    transmit s =
      { s with
        wire := s.wire ++ wordsEvents (slotWords s (framePlan s.par))
        clk := false
        dat := false
        lat := false
        seq := .idle
        ready := false } := by
  rw [transmit, sendSlots_spec _ _ (framePlan_ne_nil _)]
  simp [State.setReady, framePlan, Slot.value]

/-- A TICK that goes on is outside a serial window; it transmits and counts (R183). -/
theorem tick_eq_next {s t : State} :
    tick s = .next t ↔ s.hostop ≠ .serial ∧ t = (transmit s).countFrame := by
  unfold tick
  split <;> simp_all [eq_comm]

/-- A TICK faults exactly in a serial window (R187). -/
theorem tick_eq_fault {s : State} {e : Fault} :
    tick s = .fault e ↔ s.hostop = .serial ∧ e = .collision (raise .collision s) := by
  unfold tick
  split <;> simp_all [eq_comm]

theorem tick_ne_refused (s : State) (e : Refusal) : tick s ≠ .refused e := by
  unfold tick
  split <;> simp

theorem tick_keeps {s t : State} (h : tick s = .next t) : TickKeeps s t := by
  obtain ⟨-, rfl⟩ := tick_eq_next.1 h
  rw [transmit_spec]
  exact ⟨rfl, rfl, rfl, rfl, rfl, rfl, rfl, rfl, rfl, rfl, rfl⟩

/-- Serving TICKs that goes on changes only what TICK writes (R188). -/
theorem serveTicks_keeps {ts : List Nat} {s t : State} (h : serveTicks ts s = .next t) : TickKeeps s t := by
  induction ts generalizing s with
  | nil => simp [serveTicks] at h; subst h; exact .refl _
  | cons k r ih =>
    cases k with
    | zero =>
      obtain ⟨u, hu, hv⟩ := andThen_eq_next.1 h
      have h0 : TickKeeps s (s.setTicks r) := ⟨rfl, rfl, rfl, rfl, rfl, rfl, rfl, rfl, rfl, rfl, rfl⟩
      exact (h0.trans (tick_keeps hu)).trans (ih hv)
    | succ k => simp [serveTicks] at h; subst h; exact .refl _

/-- Outside a serial window every due TICK is served (R184). -/
theorem serveTicks_completes (ts : List Nat) {s : State} (h : s.hostop ≠ .serial) :
    ∃ t, serveTicks ts s = .next t := by
  induction ts generalizing s with
  | nil => exact ⟨s, rfl⟩
  | cons k r ih =>
    cases k with
    | zero =>
      have ht := tick_eq_next (s := s.setTicks r).2 ⟨by simpa using h, rfl⟩
      obtain ⟨t, hk⟩ := ih (s := (transmit (s.setTicks r)).countFrame) (by
        rw [(tick_keeps ht).hostop]
        exact h)
      exact ⟨t, by simp [serveTicks, ht, hk]⟩
    | succ k => exact ⟨s, rfl⟩

theorem serveTicks_ne_refused (ts : List Nat) (s : State) (e : Refusal) : serveTicks ts s ≠ .refused e := by
  induction ts generalizing s with
  | nil => simp [serveTicks]
  | cons k r ih =>
    cases k with
    | zero =>
      intro h
      rcases andThen_eq_refused.1 h with h | ⟨u, -, h⟩
      · exact tick_ne_refused _ _ h
      · exact ih _ h
    | succ k => simp [serveTicks]

/-! ### Micro-steps -/

/-- A micro-step that goes on: some served TICKs, then the micro-step itself (R186). -/
theorem micro_eq_next {f : State → State} {s t : State} :
    micro f s = .next t ↔ ∃ u, serveTicks s.ticks s = .next u ∧ t = (f u).countdown := by
  rw [micro, andThen_eq_next]
  simp only [Host.Outcome.next.injEq, @eq_comm _ t]

/-- Outside a serial window a micro-step always goes on. -/
theorem micro_completes (f : State → State) {s : State} (h : s.hostop ≠ .serial) :
    ∃ u, TickKeeps s u ∧ micro f s = .next (f u).countdown := by
  obtain ⟨u, hu⟩ := serveTicks_completes s.ticks h
  exact ⟨u, serveTicks_keeps hu, by simp [micro, hu]⟩

theorem micro_ne_refused (f : State → State) (s : State) (e : Refusal) : micro f s ≠ .refused e := by
  intro h
  rcases andThen_eq_refused.1 h with h | ⟨u, -, h⟩
  · exact serveTicks_ne_refused _ _ _ h
  · simp at h

/-! ### Serial operations of the host -/

/-- Pin micro-steps no TICK falls into: as undivided, with `HOSTOP` at `h` and the schedule so much further. -/
theorem hostPins_of_quiet {h : HostOp} (es : List (Event × Cursor)) {s : State} (hq : s.quiet es.length = true) :
    hostPins h es s = .next { sendPins es s with
      hostop := if es.isEmpty then s.hostop else h, ticks := elapse es.length s.ticks } := by
  induction es generalizing s with
  | nil => simp [hostPins, sendPins]
  | cons e es ih =>
    have h1 : s.quiet 1 = true := quiet_mono hq (by simp)
    rw [hostPins, hostPin, micro_of_quiet h1, andThen_next, ih]
    · cases es with
      | nil => simp [sendPins, sendPin, State.setHostOp, State.countdown, State.setTicks, State.setSeq]
      | cons e' es =>
        simp only [sendPins_spec, List.isEmpty_cons]
        rcases e with ⟨⟨_ | _, _⟩, _⟩ <;>
        simp [sendPin, State.setHostOp, State.countdown, State.setTicks, State.setSeq, State.drive, State.levels,
          elapse_elapse, replay, Levels.after, List.getLast?_cons, Nat.add_comm]
    · apply quiet_of_ticks_elapse (a := 1) (s := s)
      · simpa [Nat.add_comm] using hq
      · simp [sendPin]

theorem wordsEvents_cons (w : Word × Nat) (ws : List (Word × Nat)) :
    wordsEvents (w :: ws) = wordEvents w.1 w.2 ++ wordsEvents ws := by
  simp [wordsEvents]

/-- A serial operation of the host that no TICK falls into: as undivided, with `HOSTOP` at `h` after it. -/
theorem hostSlots_of_quiet {h : HostOp} (sls : List Slot) (hne : sls ≠ []) {s : State}
    (hq : s.quiet (wordsEvents (slotWords s sls)).length = true) :
    hostSlots h sls s = .next { sendSlots sls s with
      hostop := h, ticks := elapse (wordsEvents (slotWords s sls)).length s.ticks } := by
  induction sls generalizing s with
  | nil => exact absurd rfl hne
  | cons sl rest ih =>
    have hw : ((slotSteps sl rest s).length) = (wordEvents (sl.value s) sl.k).length := wordSteps_length ..
    have hsplit : (wordsEvents (slotWords s (sl :: rest))).length
        = (slotSteps sl rest s).length + (wordsEvents (slotWords s rest)).length := by
      simp [slotWords, wordsEvents_cons, hw]
    have hne' : (slotSteps sl rest s).isEmpty = false := by
      obtain ⟨es, hes⟩ := wordSteps_last sl.phase sl.w (cursorOf rest) (sl.value s) sl.k
      simp [slotSteps, hes]
    rw [hsplit] at hq ⊢
    rw [hostSlots, hostPins_of_quiet _ (quiet_mono hq (Nat.le_add_right ..)), andThen_next, hne']
    cases rest with
    | nil => simp [hostSlots, sendSlots, slotWords, wordsEvents]
    | cons sl' rest =>
      have hv : slotWords { sendPins (slotSteps sl (sl' :: rest) s) s with
          hostop := .serial, ticks := elapse (slotSteps sl (sl' :: rest) s).length s.ticks } (sl' :: rest)
          = slotWords s (sl' :: rest) := by
        simp only [slotWords]
        apply List.map_congr_left
        intro x _
        rw [Slot.value_congr (s := s)] <;> simp [slotSteps, sendPins_wordSteps]
      simp only [List.isEmpty_cons, Bool.false_eq_true, if_false]
      rw [ih (by simp)]
      · rw [hv, sendSlots_spec _ _ (by simp), hv, sendSlots_spec _ _ (by simp)]
        have hval : ∀ x : Slot, x.value { sendPins (slotSteps sl (sl' :: rest) s) s with
          hostop := .serial, ticks := elapse (slotSteps sl (sl' :: rest) s).length s.ticks } = x.value s := fun x => by
            rw [Slot.value_congr (s := s)] <;> simp [slotSteps, sendPins_wordSteps]
        rw [hval]
        simp [slotSteps, sendPins_wordSteps, elapse_elapse, slotWords, wordsEvents_cons]
      · rw [hv]
        exact quiet_of_ticks_elapse hq rfl

/-! ### Visiting orders -/

theorem arrange_length {α : Type} (cs : List Nat) (xs : List α) : (arrange cs xs).length = xs.length := by
  induction xs generalizing cs with
  | nil => rfl
  | cons x xs ih =>
    simp only [arrange, List.length_insertIdx, ih, List.length_cons]
    rw [if_pos]
    exact Nat.le_of_lt_succ (Nat.mod_lt _ (Nat.succ_pos _))

end Sys2Proof.Machine
end

