-- ==== Sys2Proof/Laws/PerInstr.lean ====
section
/-! SUPPORT. Statements about every command as syntax, one lemma per constructor: the operation code of its word. -/

namespace Sys2Proof.Laws.EncodeOp

/-- The operation code column of R75. -/
def opcode : Instr → Nat
  | .drawWr _ _ => 0x1
  | .drawRd _ => 0x2
  | .setBright _ => 0x3
  | .clear => 0x4
  | .correct => 0x5
  | .writeFrame => 0x6
  | .putWord _ _ => 0x7
  | .writeConfig => 0x8
  | .start => 0x9
  | .stop => 0xA

/-- The word of a command carries its operation code in bits 31:28. -/
def Statement (i : Instr) : Prop := opField (encode i) = opcode i

/-- The `op` field of a word of format C. -/
theorem opField_formatC (op a : Nat) (d : Word) : opField (formatC op a d) = op % 16 := by
  have ha : a % 2 ^ 12 < 2 ^ 12 := Nat.mod_lt _ (by decide)
  simp only [opField, formatC, BitVec.toNat_ushiftRight, BitVec.toNat_append, BitVec.toNat_ofNat]
  rw [← Nat.shiftLeft_add_eq_or_of_lt d.isLt, ← Nat.shiftLeft_add_eq_or_of_lt ha]
  simp only [Nat.shiftLeft_eq, Nat.shiftRight_eq_div_pow]
  have hd := d.isLt
  omega

theorem drawWr (idx : Nat) (val : Word) : Statement (.drawWr idx val) := opField_formatC ..
theorem drawRd (idx : Nat) : Statement (.drawRd idx) := opField_formatC ..
theorem setBright (val : Word) : Statement (.setBright val) := opField_formatC ..
theorem clear : Statement .clear := opField_formatC ..
theorem correct : Statement .correct := opField_formatC ..
theorem writeFrame : Statement .writeFrame := opField_formatC ..
theorem putWord (k : Nat) (val : Word) : Statement (.putWord k val) := opField_formatC ..
theorem writeConfig : Statement .writeConfig := opField_formatC ..
theorem start : Statement .start := opField_formatC ..
theorem stop : Statement .stop := opField_formatC ..

end Sys2Proof.Laws.EncodeOp
end

