-- ==== Sys2Proof/Laws/Relations.lean ====
section
/-! SUPPORT. What a step can do, said once: a relation between states that is closed under the machine's primitive updates
holds between a state and any next state of a command or of a step. Frames and monotone facts follow from it. -/

namespace Sys2Proof.Machine

/-- Closed under everything a command or a TICK is made of, and a preorder. -/
structure Closed (R : State → State → Prop) : Prop where
  refl : ∀ s, R s s
  trans : ∀ s t u, R s t → R t u → R s u
  tick : ∀ s t rest, s.ticks = 0 :: rest → tick (s.setTicks rest) = .next t → R s t
  countdown : ∀ s, R s s.countdown
  hostOp : ∀ s h, R s (s.setHostOp h)
  order : ∀ s cs, R s (s.setOrder cs)
  pin : ∀ s e, R s (sendPin e s)
  drive : ∀ s e, R s (s.drive e)
  ready : ∀ s v, R s (s.setReady v)
  draw : ∀ s i v, R s (s.setDraw (s.draw.write i v))
  tx : ∀ s i v, R s (s.setTx (s.tx.write i v))
  bright : ∀ s v, R s (s.setBright v)
  respond : ∀ s v, R s (s.respond v)
  enable : ∀ s, R s (s.setCfg (cfgEnabled s.par s.cfg))
  disable : ∀ s, R s (s.setCfg (cfgDisabled s.par s.cfg))
  illegal : ∀ s, R s (raise .illegal s)
  index : ∀ s, R s (raise .index s)
  cmds : ∀ s c cs, s.cmds = c :: cs → R s (s.setCmds cs)

variable {R : State → State → Prop}

/-- A TICK leaves the rest of the schedule. -/
theorem tick_ticks {s t : State} (h : tick s = .next t) : t.ticks = s.ticks := by
  obtain ⟨-, rfl⟩ := tick_eq_next.1 h
  rw [transmit_spec]
  rfl

theorem serveTicks_related (C : Closed R) {ts : List Nat} {s t : State} (hs : s.ticks = ts)
    (h : serveTicks ts s = .next t) : R s t := by
  induction ts generalizing s with
  | nil =>
    simp only [serveTicks, Host.Outcome.next.injEq] at h
    exact h ▸ C.refl _
  | cons k r ih =>
    cases k with
    | zero =>
      obtain ⟨u, hu, hv⟩ := andThen_eq_next.1 h
      exact C.trans _ _ _ (C.tick _ _ _ hs hu) (ih (by rw [tick_ticks hu]; rfl) hv)
    | succ k =>
      simp only [serveTicks, Host.Outcome.next.injEq] at h
      exact h ▸ C.refl _

theorem micro_related (C : Closed R) {f : State → State} (hf : ∀ s, R s (f s)) {s t : State}
    (h : micro f s = .next t) : R s t := by
  obtain ⟨u, hu, rfl⟩ := micro_eq_next.1 h
  exact C.trans _ _ _ (serveTicks_related C rfl hu) (C.trans _ _ _ (hf u) (C.countdown _))

theorem hostPins_related (C : Closed R) {h : HostOp} (es : List (Event × Cursor)) {s t : State}
    (ht : hostPins h es s = .next t) : R s t := by
  induction es generalizing s with
  | nil =>
    simp only [hostPins, Host.Outcome.next.injEq] at ht
    exact ht ▸ C.refl _
  | cons e es ih =>
    obtain ⟨u, hu, hv⟩ := andThen_eq_next.1 ht
    exact C.trans _ _ _ (micro_related C (fun s => C.trans _ _ _ (C.pin s e) (C.hostOp _ _)) hu) (ih hv)

theorem hostSlots_related (C : Closed R) {h : HostOp} (sls : List Slot) {s t : State}
    (ht : hostSlots h sls s = .next t) : R s t := by
  induction sls generalizing s with
  | nil =>
    simp only [hostSlots, Host.Outcome.next.injEq] at ht
    exact ht ▸ C.refl _
  | cons e es ih =>
    obtain ⟨u, hu, hv⟩ := andThen_eq_next.1 ht
    exact C.trans _ _ _ (hostPins_related C _ hu) (ih hv)

theorem clearLoop_related (C : Closed R) (todo : List (Buffer × Nat)) {s t : State}
    (h : clearLoop todo s = .next t) : R s t := by
  induction todo generalizing s with
  | nil =>
    simp only [clearLoop, Host.Outcome.next.injEq] at h
    exact h ▸ C.refl _
  | cons x rest ih =>
    obtain ⟨u, hu, hv⟩ := andThen_eq_next.1 h
    refine C.trans _ _ _ (micro_related C (fun s => C.trans _ _ _ ?_ (C.hostOp _ _)) hu) (ih hv)
    rcases x with ⟨_ | _, i⟩
    · exact C.draw s _ _
    · exact C.tx s _ _

theorem correctLoop_related (C : Closed R) {after : AfterPass} (todo : List Nat) {s t : State}
    (h : correctLoop after todo s = .next t) : R s t := by
  induction todo generalizing s with
  | nil =>
    simp only [correctLoop, Host.Outcome.next.injEq] at h
    exact h ▸ C.refl _
  | cons i rest ih =>
    obtain ⟨u, hu, hv⟩ := andThen_eq_next.1 h
    exact C.trans _ _ _ (micro_related C (fun s => C.trans _ _ _ (C.tx s _ _) (C.hostOp _ _)) hu) (ih hv)

theorem correctionPass_related (C : Closed R) {after : AfterPass} {h : HostOp} {s t : State}
    (ht : correctionPass after h s = .next t) : R s t := by
  obtain ⟨u, hu, hv⟩ := andThen_eq_next.1 ht
  exact C.trans _ _ _ (C.trans _ _ _ (C.trans _ _ _ (C.order s _) (C.hostOp _ _)) (correctLoop_related C _ hu))
    (micro_related C (fun s => C.trans _ _ _ (C.ready s _) (C.hostOp _ _)) hv)

theorem switchClock_related (C : Closed R) {f : Config.Params → Word → Word}
    (hf : ∀ s : State, R s (s.setCfg (f s.par s.cfg))) {v : Bool} {s t : State} (ht : switchClock f v s = .next t) :
    R s t := by
  obtain ⟨u, hu, hv⟩ := andThen_eq_next.1 ht
  obtain ⟨w, hw, hx⟩ := andThen_eq_next.1 hv
  exact C.trans _ _ _ (micro_related C (fun s => C.trans _ _ _ (hf s) (C.hostOp _ _)) hu)
    (C.trans _ _ _ (hostSlots_related C _ hw) (micro_related C (fun s => C.trans _ _ _ (C.drive s _) (C.hostOp _ _)) hx))

/-- Every next state of a command is related to the state it started from. -/
theorem exec_related (C : Closed R) (i : Instr) {s t : State} (h : exec i s = .next t) : R s t := by
  cases i with
  | drawWr idx v =>
    exact micro_related C (fun s => by unfold withIndex; split; exacts [C.draw s _ _, C.index s]) h
  | drawRd idx =>
    exact micro_related C (fun s => by unfold withIndex; split; exacts [C.respond s _, C.index s]) h
  | setBright v => exact micro_related C (fun s => C.bright s _) h
  | clear =>
    obtain ⟨u, hu, hv⟩ := andThen_eq_next.1 h
    simp only [Host.Outcome.next.injEq] at hv
    rw [← hv]
    exact C.trans _ _ _ (C.trans _ _ _ (C.trans _ _ _ (C.order s _) (C.hostOp _ _)) (clearLoop_related C _ hu))
      (C.hostOp _ _)
  | correct => exact correctionPass_related C h
  | writeFrame =>
    obtain ⟨u, hu, hv⟩ := andThen_eq_next.1 h
    obtain ⟨w, hw, hx⟩ := andThen_eq_next.1 hv
    exact C.trans _ _ _ (correctionPass_related C hu)
      (C.trans _ _ _ (hostSlots_related C _ hw)
        (micro_related C (fun s => C.trans _ _ _ (C.ready s _) (C.hostOp _ _)) hx))
  | putWord k v => exact hostSlots_related C _ h
  | writeConfig => exact hostSlots_related C _ h
  | start => exact switchClock_related C C.enable h
  | stop => exact switchClock_related C C.disable h

/-- Every next state of a step is related to the state it started from. -/
theorem step_related (C : Closed R) {s t : State} (h : step s = .next t) : R s t := by
  unfold step nextInput at h
  by_cases hd : tickDue s = true
  · simp only [hd, if_true] at h
    obtain ⟨r, hr⟩ : ∃ r, s.ticks = 0 :: r := by
      unfold tickDue at hd
      split at hd <;> simp_all
    rw [hr] at h
    exact C.tick _ _ _ hr h
  · simp only [hd, if_false, Bool.false_eq_true] at h
    cases hc : s.cmds with
    | nil =>
      simp only [hc, waitInput, Host.Outcome.next.injEq] at h
      exact h ▸ C.countdown _
    | cons c cs =>
      simp only [hc] at h
      cases hdec : decode c with
      | ok i =>
        rw [hdec] at h
        exact C.trans _ _ _ (C.cmds _ _ _ hc) (exec_related C i h)
      | error e =>
        rw [hdec] at h
        exact C.trans _ _ _ (C.cmds _ _ _ hc) (micro_related C C.illegal h)

end Sys2Proof.Machine
end

