-- ==== Sys2Proof/Tests/Slice0.lean ====
section
/-! SUPPORT. Tests: the decoding of words written out from R75, the vectors of 95_test_vectors.md, ill-formed commands, and a
witness for the hypotheses of every statement that has some. -/

namespace Sys2Proof.Tests

open Sys2Proof Sys2Proof.Machine

/-! ### Well-formedness: an ill-formed term for each check -/

theorem test_drawWr_index_13_bits_refused : (Instr.drawWr 4096 0#16).wellFormed = false := by decide
theorem test_drawRd_index_13_bits_refused : (Instr.drawRd 4096).wellFormed = false := by decide
theorem test_putWord_count_6_bits_refused : (Instr.putWord 32 0#16).wellFormed = false := by decide
theorem test_params_no_led_refused : ({ Config.illustration with n := 0 } : Config.Params).wf = false := by decide
theorem test_params_two_enable_bits_refused :
    ({ Config.illustration with enMask := 3#16 } : Config.Params).wf = false := by decide
theorem test_params_enable_bit_set_at_reset_refused :
    ({ Config.illustration with cfgReset := 0x0121#16 } : Config.Params).wf = false := by decide
theorem test_illustration_legal : Config.illustration.wf = true := by decide

/-! ### Decoding: words written out from R75's fields (V50) -/

-- op = 0001, idx = 0000 0000 0010, val = 1111 1111 1111 1111
theorem test_decode_drawWr : decode 0b00010000000000101111111111111111#32 = .ok (.drawWr 2 0xFFFF#16) := by decide
-- the highest index and a value with only its lowest bit
theorem test_decode_drawWr_last : decode 0b00011111111111110000000000000001#32 = .ok (.drawWr 4095 1#16) := by decide
-- op = 0010, idx = 0000 0000 0001, d = 0
theorem test_decode_drawRd : decode 0b00100000000000010000000000000000#32 = .ok (.drawRd 1) := by decide
-- op = 0011, a = 0, val = 1000 0000 0000 0000
theorem test_decode_setBright : decode 0b00110000000000001000000000000000#32 = .ok (.setBright 0x8000#16) := by decide
theorem test_decode_clear : decode 0b01000000000000000000000000000000#32 = .ok .clear := by decide
theorem test_decode_correct : decode 0b01010000000000000000000000000000#32 = .ok .correct := by decide
theorem test_decode_writeFrame : decode 0b01100000000000000000000000000000#32 = .ok .writeFrame := by decide
-- op = 0111, bits 27:21 = 0, k = 00011, val = 1010 0000 0000 0001
theorem test_decode_putWord : decode 0b01110000000000111010000000000001#32 = .ok (.putWord 3 0xA001#16) := by decide
theorem test_decode_putWord_31 : decode 0b01110000000111110000000000000000#32 = .ok (.putWord 31 0#16) := by decide
theorem test_decode_writeConfig : decode 0b10000000000000000000000000000000#32 = .ok .writeConfig := by decide
theorem test_decode_start : decode 0b10010000000000000000000000000000#32 = .ok .start := by decide
theorem test_decode_stop : decode 0b10100000000000000000000000000000#32 = .ok .stop := by decide
-- one reserved word for each item of R86
theorem test_reserved : [0x00000000#32, 0xB0000000#32, 0xFFFFFFFF#32, 0x20010001#32, 0x30018000#32, 0x40000001#32,
    0x70200000#32].map decode = [.error .op, .error .op, .error .op, .error .drawRdData, .error .setBrightIndex,
    .error .operands, .error .putWordHigh] := by decide
theorem test_encode_putWord : encode (.putWord 3 0xA001#16) = 0x7003A001#32 := by decide
theorem test_table_word : decodeTableWord 32 0x1002FFFF = some (.drawWr 2 0xFFFF#16) := by decide
theorem test_asm : (Instr.drawWr 2 9#16).asm = "DRAW_WR 2, 9" := by decide +kernel
-- R93: FILL v on three LEDs
theorem test_fill : fill 3 7#16 = [.drawWr 0 7#16, .drawWr 1 7#16, .drawWr 2 7#16] := by decide

/-! ### States for the tests -/

/-- An instance of `n` LEDs with R6's illustration values, its buffers given. -/
def withBuffers (n : Nat) (gammaEn : Bool) (draw tx : Memory) : State :=
  { State.resetWith { Config.illustration with n := n, gammaEn := gammaEn } with draw := draw, tx := tx }

/-- Three LEDs, the buffers of V40 and V60. -/
def three : State := withBuffers 3 false [5#16, 6#16, 7#16] [1#16, 2#16, 3#16]

/-- Two LEDs of program D, `BRIGHT = 1`. -/
def two : State := { withBuffers 2 false [30#16, 40#16] [10#16, 20#16] with bright := 1#16 }

/-- The next state, if there is one. -/
def nextOf (r : Result) : Option State :=
  match r with
  | .next s => some s
  | .fault _ => none
  | .refused _ => none

/-- The state a collision leaves, if there is one. -/
def collisionOf (r : Result) : Option State :=
  match r with
  | .next _ => none
  | .fault (.collision s) => some s
  | .refused _ => none

/-! ### Commands -/

theorem test_drawRd_v40 : (nextOf (exec (.drawRd 1) three)).map (·.resp) = some [6#16] := by decide
theorem test_drawRd_out_of_range : (nextOf (exec (.drawRd 3) three)).map (fun s => (s.resp, s.fault)) = some ([], 0b010#3) := by
  decide
theorem test_drawWr_v40 : (nextOf (exec (.drawWr 2 0x1234#16) three)).map (fun s => (s.draw, s.tx))
    = some ([5#16, 6#16, 0x1234#16], [1#16, 2#16, 3#16]) := by decide
theorem test_drawWr_out_of_range : (nextOf (exec (.drawWr 3 1#16) three)).map (fun s => (s.draw, s.fault))
    = some ([5#16, 6#16, 7#16], 0b010#3) := by decide
theorem test_setBright : (nextOf (exec (.setBright 0x8000#16) three)).map (·.bright) = some 32768#16 := by decide
-- V41: the linear path saturates; then brightness 0
theorem test_correct_v41 : (nextOf (exec .correct { withBuffers 2 false [3#16, 0x9000#16] [8#16, 8#16] with bright := 2#16 })).map
    (fun s => (s.tx, s.ready, s.draw)) = some ([6#16, 0xFFFF#16], true, [3#16, 0x9000#16]) := by decide +kernel
-- program B: the gamma path with the reference table
theorem test_correct_gamma : (nextOf (exec .correct (withBuffers 4 true [0#16, 1#16, 3500#16, 65535#16] [9#16, 9#16, 9#16, 9#16]))).map
    (·.tx) = some [0#16, 67#16, 0#16, 65535#16] := by decide +kernel
theorem test_clear_v42 : (nextOf (exec .clear { withBuffers 2 false [9#16, 9#16] [4#16, 4#16] with ready := true })).map
    (fun s => (s.draw, s.tx, s.ready)) = some ([0#16, 0#16], [0#16, 0#16], true) := by decide
-- V10: 51 events; the latch rises before the 14th bit; the last levels
theorem test_putWord_v10 : (nextOf (exec (.putWord 3 0xA001#16) three)).map
    (fun s => (s.wire.length, s.wire.drop 36 |>.take 7, s.clk, s.dat, s.lat)) = some (51,
      [⟨.clk, false⟩, ⟨.dat, false⟩, ⟨.clk, true⟩, ⟨.clk, false⟩, ⟨.lat, true⟩, ⟨.dat, false⟩, ⟨.clk, true⟩],
      false, true, false) := by decide +kernel
-- V11: how many samples see the latch high, and the latch falls, for eight values of k
theorem test_latch_window_v11 : [0, 1, 3, 11, 15, 16, 17, 31].map (fun k =>
      let view := chipView Levels.low (wordEvents 0xFFFF#16 k)
      ((wordEvents 0xFFFF#16 k).length, view.count (.sample true true), view.count (.sample true false), view.count .latchFall))
    = [(50, 0, 16, 0), (51, 1, 15, 1), (51, 3, 13, 1), (51, 11, 5, 1), (51, 15, 1, 1), (51, 16, 0, 1), (50, 0, 16, 0),
      (50, 0, 16, 0)] := by decide +kernel
-- V14: the configuration write of 0x0121
theorem test_writeConfig_v14 : (nextOf (exec .writeConfig { three with cfg := 0x0121#16 })).map
    (fun s => (s.wire.length, s.dat, (chipView Levels.low s.wire).count .latchFall)) = some (102, true, 2) := by decide +kernel
-- R162, R163: the worked examples
theorem test_start : (nextOf (exec .start three)).map (fun s => (s.cfg, s.gck, s.wire.length)) = some (0x0121#16, true, 103) := by
  decide +kernel
theorem test_stop : (nextOf (exec .stop { three with cfg := 0x0121#16, gck := true })).map
    (fun s => (s.cfg, s.gck, s.wire.getLast?)) = some (0x0120#16, false, some ⟨.gck, false⟩) := by decide +kernel
-- R158's example: TX, READY, FRAME, and the words 14 times 0, 0x0304, 0x0102, 0/3
theorem test_writeFrame : (nextOf (exec .writeFrame
      { withBuffers 2 false [0x0102#16, 0x0304#16] [0#16, 0#16] with bright := 1#16 })).map
    (fun s => (s.tx, s.ready, s.frame)) = some ([0x0102#16, 0x0304#16], false, 0#32) := by decide +kernel
theorem test_writeFrame_words : frameWords { Config.illustration with n := 2 } [0x0102#16, 0x0304#16]
    = List.replicate 14 (0#16, 0) ++ [(0x0304#16, 0), (0x0102#16, 0), (0#16, 3)] := by decide

/-! ### TICK -/

-- V60, V61
theorem test_tick_v60 : (nextOf (tick { three with frame := 7#32, ready := true })).map (fun s => (s.ready, s.frame))
    = some (false, 8#32) := by decide +kernel
theorem test_frame_size_v60 : (frameEvents three.par three.tx).length = 851 := by decide +kernel
theorem test_tick_words_v13 : (nextOf (tick { three with tx := [0x0001#16, 0x8000#16, 0xFFFF#16] })).map (·.wire)
    = some (wordsEvents (List.replicate 13 (0#16, 0) ++ [(0xFFFF#16, 0), (0x8000#16, 0), (0x0001#16, 0), (0#16, 3)])) := by
  rw [tick, if_neg (by decide), transmit_spec]
  exact congrArg some (congrArg wordsEvents (by decide))
theorem test_tick_wraps_v61 : (nextOf (tick { three with frame := 0xFFFFFFFF#32 })).map (·.frame) = some 0#32 := by
  decide +kernel
-- V62: a TICK after the 20th pin event of a PUT_WORD
theorem test_collision_v62 : (collisionOf (exec (.putWord 3 0xA001#16) { three with ticks := [20], frame := 7#32 })).map
    (fun s => (s.fault, s.frame, s.wire.length)) = some (0b100#3, 7#32, 20) := by decide +kernel
-- R166: no collision before the first pin event, a collision before the last, none before pin(GCK)
theorem test_start_window : [0, 1, 2, 102, 103].map (fun m =>
      (nextOf (exec .start { withBuffers 1 false [1#16] [1#16] with ticks := [m] })).map (fun s => (s.frame, s.gck)))
    = [some (1#32, true), some (1#32, true), none, none, some (1#32, true)] := by decide +kernel
-- program D: the interrupting TICK finds [30, 20] or [10, 40], by the visiting order; the pass ends with [30, 40]
theorem test_torn_frame_d : [[0], [1], [1, 0]].map (fun todo => (nextOf (correctLoop .stop todo two)).map (·.tx))
    = [some [30#16, 20#16], some [10#16, 40#16], some [30#16, 40#16]] := by decide
theorem test_visiting_order : arrange [] [0, 1] = [0, 1] ∧ arrange [1] [0, 1] = [1, 0] := by decide
-- program E, one step: a reserved word on the port
theorem test_reserved_step : (nextOf (step { three with cmds := [0xB0000000#32], fault := 0b010#3 })).map
    (fun s => (s.fault, s.wire, s.cmds)) = some (0b011#3, [], []) := by decide
theorem test_fetch_word : (nextOf (step (State.reset.withFetchWord 32 0x30008000))).map (·.bright) = some 0x8000#16 := by decide
theorem test_end_of_run : State.reset.over = true ∧ State.reset.good = true ∧
    ({ three with fault := 0b001#3 } : State).good = false := by decide

/-! ### Arithmetic -/

-- V30 to V33, V20
theorem test_satAdd : satAdd 65000#16 536#16 = 65535#16 ∧ satAdd 12345#16 0#16 = 12345#16 := by decide
theorem test_satSub : satSub 100#16 101#16 = 0#16 ∧ satSub 65535#16 1#16 = 65534#16 := by decide
theorem test_satOffset : satOffset 10#16 (-9) = 1#16 ∧ satOffset 65535#16 (-100000) = 0#16 := by decide
theorem test_satMul : satMul 255#16 257#16 = 65535#16 ∧ satMul 21846#16 3#16 = 65535#16 := by decide
-- V21 and R119's example
theorem test_gammaPixel : gammaPixel Config.referenceCoef 32768#16 65535#16 = 9454#16 ∧
    gammaPixel Config.referenceCoef 65522#16 32768#16 = 32767#16 := by decide +kernel
-- V3's last coefficient, from the nodes and samples it prints, to ten decimals
theorem test_solver_v3 : (abs ((fit (K := Rat)
      ⟨-9238795325112867 / 10000000000000000, -3826834323650898 / 10000000000000000, 3826834323650898 / 10000000000000000,
        9238795325112867 / 10000000000000000⟩
      (fun x => if x < -1 / 2 then 39697596864348 / 100000000000000 else if x < 0 then 682028773350537 / 1000000000000000
        else if x < 1 / 2 then 14662138007571093 / 10000000000000000 else 25190441714069842 / 10000000000000000) (-1) 1).c3
      - 437939235118106 / 10000000000000000) < 1 / 10000000000) := by decide +kernel

/-! ### Witnesses: the hypotheses of the statements can be met -/

theorem witness_StepRunsDecodedCommand :
    let s := { three with cmds := [0x30008000#32] }
    tickDue s = false ∧ s.cmds = [0x30008000#32] ∧ decode 0x30008000#32 = .ok (.setBright 0x8000#16) ∧
      decodeTableWord 32 0x30008000 = some (.setBright 0x8000#16) := by decide
theorem witness_StepServesTickOrWaits :
    ({ three with ticks := [0, 3] } : State).ticks = [0, 3] ∧ tickDue three = false ∧ three.cmds = [] := by decide
theorem witness_ReservedWordRaisesIllegal :
    let s := { three with cmds := [0xB0000000#32] }
    s.quiet 1 = true ∧ s.cmds = [0xB0000000#32] ∧ (0xB0000000#32 : Cmd).extractLsb' 28 4 = 0xB#4 := by decide
theorem witness_ReservedWord : IsReservedWord 0xB0000000#32 := Or.inl (by decide)
theorem witness_DecodeFollowsOpcodeMap :
    0x1002FFFF#32 &&& 0xF0000000#32 = 0x10000000#32 ∧ 0x20010000#32 &&& 0xF000FFFF#32 = 0x20000000#32 ∧
    0x30008000#32 &&& 0xFFFF0000#32 = 0x30000000#32 ∧ 0x701F0000#32 &&& 0xFFE00000#32 = 0x70000000#32 ∧
    ∀ r ∈ opcodeRows, (0xB0000000#32 : Cmd) &&& r.mask ≠ r.mtch := by decide
theorem witness_DecodeOfEncode : (Instr.drawWr 4095 1#16).wellFormed = true ∧ (Instr.putWord 31 1#16).wellFormed = true := by
  decide
theorem witness_EncodeOfDecode : decode 0x701F0000#32 = .ok (.putWord 31 0#16) := by decide
theorem witness_DrawWriteStoresElement : three.quiet 1 = true ∧ 2 < three.par.n ∧ ¬ 3 < three.par.n := by decide
theorem witness_DrawReadResponds :
    three.quiet 1 = true ∧ three.buffersOk = true ∧ 2 < three.draw.length ∧ three.par.n ≤ 3 := by decide
theorem witness_OutOfRangeIndexRaisesFault : three.quiet 1 = true ∧ three.par.n ≤ 3 ∧ three.par.n ≤ 4095 := by decide
theorem witness_ElementReadAfterWrite : 2 < three.draw.length := by decide
theorem witness_SetBrightWritesScale : ({ three with ticks := [1] } : State).quiet 1 = true := by decide
theorem witness_ClearZeroesBothBuffers :
    let s := { three with ticks := [6] }
    s.buffersOk = true ∧ s.quiet (2 * s.par.n) = true := by decide
theorem witness_ClearUnderAnyTicks :
    let s := { three with ticks := [0, 2, 0], order := [1, 5, 0] }
    s.buffersOk = true ∧ ticksWithin (2 * s.par.n) s.ticks = 3 := by decide
theorem witness_CorrectPassResult :
    let s := { three with ticks := [4] }
    s.buffersOk = true ∧ s.quiet (s.par.n + 1) = true := by decide
theorem witness_CorrectUnderAnyTicks :
    let s := { three with ticks := [3, 0], order := [2, 1] }
    s.buffersOk = true ∧ ticksWithin (s.par.n + 1) s.ticks = 2 := by decide
theorem witness_TornFrameWords :
    let s := { two with ticks := [1] }
    s.buffersOk = true ∧ (nextOf (exec .correct s)).isSome = true ∧ (nextOf (exec .clear s)).isSome = true ∧
      (nextOf (exec .writeFrame s)).isSome = true := by
  decide +kernel
theorem witness_EveryTornMixtureReachable :
    two.buffersOk = true ∧ [1].Nodup ∧ (∀ i ∈ [1], i < two.par.n) ∧
    (∀ done ∈ [[], [(Buffer.tx, 1)], [(Buffer.tx, 0), (Buffer.draw, 1), (Buffer.tx, 1)]],
      done.Nodup ∧ (∀ x ∈ done, x.2 < two.par.n) ∧ done.length < 2 * two.par.n) := by decide
theorem witness_EveryVisitingOrderReachable : [2, 0, 1].Perm [0, 1, 2] ∧ arrange [1, 1] [0, 1, 2] = [2, 0, 1] ∧
    arrange [3, 1] (clearTargets 2) = [(Buffer.tx, 0), (Buffer.draw, 1), (Buffer.tx, 1), (Buffer.draw, 0)] := by decide
theorem witness_CorrectOutputBounds :
    let s := withBuffers 2 true [0#16, 9#16] [8#16, 8#16]
    s.buffersOk = true ∧ 1 < s.par.n ∧ s.draw.read 0 = 0#16 ∧ s.par.gammaEn = true ∧
      ({ s with bright := 0#16 } : State).bright = 0#16 := by decide
theorem witness_SatSubStopsAtZero : (1#16).toNat < (2#16).toNat := by decide
theorem witness_SatMulLimitsProduct : 1 ≤ (255#16).toNat ∧ 1 ≤ (257#16).toNat := by decide
theorem witness_SaturatingMonotone : (1#16).toNat ≤ (2#16).toNat ∧ (3#16).toNat ≤ (3#16).toNat ∧ (-1 : Int) ≤ 4 := by decide
theorem witness_GammaPixelIsFloor :
    gammaOf Config.referenceCoef 65535#16 = 1 ∧ gammaOf Config.referenceCoef 3500#16 = 0 := by decide +kernel
theorem witness_GammaPixelProperties :
    let s := withBuffers 2 true [9#16, 9#16] [8#16, 8#16]
    s.par.gammaEn = true ∧ s.draw.read 0 = s.draw.read 1 ∧ s.draw.read 0 ≠ 0#16 ∧ 0 < s.tx.length ∧ 1 < s.tx.length := by
  decide
theorem witness_PixelFunction : (9#16 : Word) ≠ 0#16 ∧ Config.illustration.gammaEn = false ∧
    ({ Config.illustration with gammaEn := true } : Config.Params).gammaEn = true := by decide
theorem witness_ChebyshevNodes : IsChebyshevNodes
    ⟨-Real.cos (1 * Real.pi / 8), -Real.cos (3 * Real.pi / 8), -Real.cos (5 * Real.pi / 8), -Real.cos (7 * Real.pi / 8)⟩ :=
  ⟨rfl, rfl, rfl, rfl⟩
theorem witness_ChebyshevNodeValues : ∃ u, IsChebyshevNodes u := ⟨_, witness_ChebyshevNodes⟩
theorem witness_FitOfReciprocal : ∃ u, IsChebyshevNodes u := ⟨_, witness_ChebyshevNodes⟩
theorem witness_ReferenceTableRoundsFit : ∃ u, IsChebyshevNodes u := ⟨_, witness_ChebyshevNodes⟩
theorem witness_FitInterpolatesSamples : (∃ u, IsChebyshevNodes u) ∧ (0 : ℝ) ≠ 1 := ⟨⟨_, witness_ChebyshevNodes⟩, zero_ne_one⟩
theorem witness_WordChipView : Levels.low.lat = false := by decide
theorem witness_PaddingCount : 32 % 16 = 0 ∧ 20 ≤ 32 := by decide
theorem witness_FrameChipView :
    three.hostop ≠ .serial ∧ three.par.lcData = 0 ∧ three.tx.length = three.par.n ∧ three.lat = false := by decide
theorem witness_PutWordSendsOneWord :
    ({ three with ticks := [51] } : State).quiet (wordEvents 0xA001#16 3).length = true ∧
      three.quiet (wordEvents 0#16 31).length = true := by decide
theorem witness_WriteConfigSendsTwoWords : ({ three with ticks := [102] } : State).quiet 102 = true := by decide
theorem witness_StartEnablesChip : ({ three with ticks := [104] } : State).quiet 104 = true := by decide
theorem witness_StopDisablesChip : three.quiet 104 = true := by decide
theorem witness_WriteFrameCorrectsAndSends :
    three.buffersOk = true ∧ three.quiet (three.par.n + 1 + (frameEvents three.par (corrected three)).length + 1) = true := by
  decide +kernel
theorem witness_TickSendsFrame :
    three.tx.length = three.par.n ∧ three.hostop ≠ .serial ∧ ({ three with hostop := .serial } : State).hostop = .serial := by
  decide
theorem witness_TickIgnoresReady : three.hostop ≠ .serial := by decide
theorem witness_RepeatedTickResendsFrame : ({ three with hostop := .between } : State).hostop ≠ .serial := by decide
theorem witness_TickInsideSerialCommandCollides :
    1 < (wordEvents 0xA001#16 3).length ∧ 50 < (wordEvents 0xA001#16 3).length ∧
      three.buffersOk = true ∧ (frameEvents three.par (corrected three)).length = 851 ∧
      three.par.n + 1 < 5 ∧ 854 < three.par.n + 1 + 851 := by decide +kernel
theorem witness_CursorCountsClockEdges :
    [1, 49].map (fun m => (collisionOf (exec (.putWord 0 1#16) { three with ticks := [m] })).map (·.seq))
      = [some ⟨.raw, 0, 0⟩, some .idle] ∧
    [1, 51, 101].map (fun m => (collisionOf (exec .writeConfig { three with ticks := [m] })).map (·.seq))
      = [some ⟨.cfgOpen, 0, 0⟩, some ⟨.cfgWord, 0, 0⟩, some .idle] ∧
    [2, 52, 102].map (fun m => (collisionOf (exec .start { three with ticks := [m] })).map (·.seq))
      = [some ⟨.cfgOpen, 0, 0⟩, some ⟨.cfgWord, 0, 0⟩, some .idle] ∧
    [2, 102].map (fun m => (collisionOf (exec .stop { three with ticks := [m] })).map (·.seq))
      = [some ⟨.cfgOpen, 0, 0⟩, some .idle] := by decide +kernel
-- 13 padding words of 50 events, LED words 2, 1, 0 of 50, the end word of 51, after 4 micro-steps of correction
theorem witness_CursorInWriteFrame : three.buffersOk = true ∧ three.par.n + 1 = 4 ∧
    [5, 653, 654, 704, 754, 804, 854].map (fun m =>
        (collisionOf (exec .writeFrame { three with ticks := [m] })).map (·.seq))
      = [some ⟨.pad, 0, 0⟩, some ⟨.data, 2, 0⟩, some ⟨.data, 2, 0⟩, some ⟨.data, 1, 0⟩, some ⟨.data, 0, 0⟩,
        some ⟨.endWord, 0, 0⟩, some .idle] := by decide +kernel
theorem witness_TickInsideConfigCommands :
    [1, 101].map (fun m => (collisionOf (exec .writeConfig { three with ticks := [m] })).isSome) = [true, true] ∧
    [2, 102].map (fun m => (collisionOf (exec .start { three with ticks := [m] })).isSome) = [true, true] ∧
    [2, 102].map (fun m => (collisionOf (exec .stop { three with ticks := [m] })).isSome) = [true, true] := by decide +kernel
theorem witness_TickInsideWriteFrame :
    [5, 854].map (fun m => (collisionOf (exec .writeFrame { three with ticks := [m] })).map (·.fault))
      = [some 0b100#3, some 0b100#3] := by decide +kernel
theorem witness_TickOutsideStartStopWindow :
    ∀ m ∈ [0, 1, 103], ({ three with ticks := [m] } : State).ticks = [m] ∧ three.tx.length = three.par.n ∧
      three.hostop ≠ .serial ∧ (m ≤ 1 ∨ m = 103) := by decide
theorem witness_TickOutsideWriteFrameWindow :
    [0, 3, 4, 855].map (fun m => (nextOf (exec .writeFrame { three with ticks := [m] })).map (fun s => (s.frame, s.ready)))
      = [some (1#32, false), some (1#32, false), some (1#32, false), some (1#32, false)] := by decide +kernel
theorem witness_FrameCountsTicks : (nextOf (step { three with ticks := [0, 2] })).isSome = true := by decide +kernel
theorem witness_AccessTable : (nextOf (exec .correct three)).isSome = true ∧ three.ticks = [] := by decide +kernel
theorem witness_NothingIsRefused : (collisionOf (step { three with cmds := [0x7003A001#32], ticks := [1] })).isSome = true := by
  decide +kernel
theorem witness_CommandsCompleteWithoutTicks : three.ticks = [] ∧ three.hostop = .none := by decide
theorem witness_BufferCommandsNeverStop : ({ three with ticks := [0, 0, 1] } : State).hostop ≠ .serial := by decide
theorem witness_NothingGatedOnEnable :
    Instr.writeFrame ≠ .writeConfig ∧ Instr.writeFrame ≠ .start ∧ Instr.writeFrame ≠ .stop := by decide
theorem witness_TracesOnlyGrow : (nextOf (step { three with cmds := [0x20010000#32] })).map (·.resp) = some [6#16] := by decide
theorem witness_OtherConfigBitsNeverChange :
    (nextOf (step { three with cmds := [0x90000000#32] })).map (·.cfg) = some 0x0121#16 := by decide +kernel
theorem witness_ResetHasInvariant : Config.illustration.wf = true := by decide
theorem witness_FaultBitsSticky :
    (nextOf (step { three with cmds := [0x30008000#32], fault := 0b011#3 })).map (·.fault) = some 0b011#3 := by decide
theorem witness_StepKeepsInvariant : Machine.Inv three ∧ (nextOf (step { three with cmds := [0x30008000#32] })).isSome = true :=
  ⟨by unfold Machine.Inv; decide, by decide⟩
theorem witness_ResetValues : State.reset = State.resetWith Config.illustration ∧ Config.illustration.wf = true :=
  ⟨rfl, by decide⟩

end Sys2Proof.Tests
end

section
/-! SUPPORT. The opcode map (R75) read as a set of rows: the rows exclude each other, so decoding by the first row that
matches (R76) is decoding by the row that matches. -/

namespace Sys2Proof

/-! ### The operand fields as the bits R71 names -/

theorem aField_eq_extractLsb' (c : Cmd) : aField c = (c.extractLsb' 16 12).toNat := by
  simp [aField, BitVec.extractLsb'_toNat]

theorem kField_eq_extractLsb' (c : Cmd) : kField c = (c.extractLsb' 16 5).toNat := by
  simp [kField, BitVec.extractLsb'_toNat]

theorem dField_eq_extractLsb' (c : Cmd) : dField c = c.extractLsb' 0 16 :=
  BitVec.setWidth_eq_extractLsb' (by decide)

/-! ### The rows exclude each other -/

theorem Row.hits_iff {r : Row} {c : Cmd} : r.hits c = true ↔ c &&& r.mask = r.mtch := beq_iff_eq

/-- Two rows that both match a word agree on the bits both masks look at. -/
theorem Row.mtch_and_mask_of_hits {r r' : Row} {c : Cmd} (h : r.hits c = true) (h' : r'.hits c = true) :
    r.mtch &&& r'.mask = r'.mtch &&& r.mask := by
  rw [Row.hits_iff] at h h'
  rw [← h, ← h']
  ac_rfl

/-- The masks of R75 are pairwise exclusive: any two rows differ on a bit both masks look at. -/
theorem opcodeRows_pairwise_differ :
    opcodeRows.Pairwise (fun r r' => r.mtch &&& r'.mask ≠ r'.mtch &&& r.mask) := by
  simp only [opcodeRows]
  decide

theorem opcodeRows_pairwise_not_both_hit (c : Cmd) :
    opcodeRows.Pairwise (fun r r' => ¬ (r.hits c = true ∧ r'.hits c = true)) :=
  opcodeRows_pairwise_differ.imp fun hne hboth => hne (Row.mtch_and_mask_of_hits hboth.1 hboth.2)

theorem opcodeRow_unique {r r' : Row} {c : Cmd} (hr : r ∈ opcodeRows) (hr' : r' ∈ opcodeRows)
    (h : r.hits c = true) (h' : r'.hits c = true) : r = r' := by
  by_contra hne
  have : Std.Symm fun r r' : Row => ¬ (r.hits c = true ∧ r'.hits c = true) :=
    ⟨fun _ _ hnot hboth => hnot hboth.symm⟩
  exact (opcodeRows_pairwise_not_both_hit c).forall hr hr' hne ⟨h, h'⟩

theorem opcodeRows_filter_hits_length_le_one (c : Cmd) : (opcodeRows.filter (fun r => r.hits c)).length ≤ 1 := by
  have hpair := (opcodeRows_pairwise_not_both_hit c).filter (fun r => r.hits c)
  have hhits : ∀ r ∈ opcodeRows.filter (fun r => r.hits c), r.hits c = true := fun r hr => (List.mem_filter.mp hr).2
  match hl : opcodeRows.filter (fun r => r.hits c) with
  | [] | [_] => simp [hl]
  | r :: r' :: rest =>
    rw [hl] at hpair hhits
    exact absurd ⟨hhits r (by simp), hhits r' (by simp)⟩ (List.rel_of_pairwise_cons hpair (by simp))

/-! ### Decoding by the row that matches (R76) -/

theorem decode_of_row {r : Row} {c : Cmd} (hr : r ∈ opcodeRows) (h : c &&& r.mask = r.mtch) :
    decode c = .ok (r.build c) := by
  have hhit : r.hits c = true := Row.hits_iff.mpr h
  have hsome : (opcodeRows.find? (fun r => r.hits c)).isSome = true := List.find?_isSome.mpr ⟨r, hr, hhit⟩
  obtain ⟨r', hfind⟩ := Option.isSome_iff_exists.mp hsome
  have hhit' : r'.hits c = true := List.find?_some (p := fun r : Row => r.hits c) hfind
  have hsame : r' = r := opcodeRow_unique (List.mem_of_find?_eq_some hfind) hr hhit' hhit
  simp only [decode, hfind, hsame]

theorem decode_of_no_row {c : Cmd} (h : ∀ r ∈ opcodeRows, c &&& r.mask ≠ r.mtch) :
    decode c = .error (reservedWhy c) := by
  have hfind : opcodeRows.find? (fun r => r.hits c) = none :=
    List.find?_eq_none.mpr fun r hr hhit => h r hr (Row.hits_iff.mp hhit)
  simp only [decode, hfind]

/-- A command without operands is one word: its row's mask looks at all 32 bits. -/
theorem decode_of_full_mask {m : Cmd} {i : Instr} (hr : ⟨m, 0xFFFFFFFF#32, fun _ => i⟩ ∈ opcodeRows) {c : Cmd}
    (h : c = m) : decode c = .ok i :=
  decode_of_row hr (h ▸ BitVec.and_allOnes)

/-- Settles O4: each row of R75 decodes its words because no other row matches them, and its operands are the bits of R71. -/
theorem decodeFollowsOpcodeMap : Obligations.DecodeFollowsOpcodeMap := by
  intro c
  rw [← aField_eq_extractLsb', ← kField_eq_extractLsb', ← dField_eq_extractLsb']
  refine ⟨?drawWr, ?drawRd, ?setBright, ?clear, ?correct, ?writeFrame, ?putWord, ?writeConfig, ?start, ?stop,
    ?reserved, ?atMostOne⟩
  case drawWr => exact decode_of_row (r := ⟨_, _, fun c => .drawWr (aField c) (dField c)⟩) (by simp [opcodeRows])
  case drawRd => exact decode_of_row (r := ⟨_, _, fun c => .drawRd (aField c)⟩) (by simp [opcodeRows])
  case setBright => exact decode_of_row (r := ⟨_, _, fun c => .setBright (dField c)⟩) (by simp [opcodeRows])
  case putWord => exact decode_of_row (r := ⟨_, _, fun c => .putWord (kField c) (dField c)⟩) (by simp [opcodeRows])
  case clear | correct | writeFrame | writeConfig | start | stop => exact decode_of_full_mask (by simp [opcodeRows])
  case reserved => exact fun h => ⟨_, decode_of_no_row h⟩
  case atMostOne => exact opcodeRows_filter_hits_length_le_one c

end Sys2Proof
end

section
/-! SUPPORT. The saturating addition and subtraction (R101, R102) as arithmetic on `0..MAX`: each is the exact result limited
to one end of the range, and nothing is lost when it is put back in 16 bits. -/

namespace Sys2Proof.Machine

theorem word_toNat_le_max (a : Word) : a.toNat ≤ 65535 := Nat.le_of_lt_succ a.isLt

/-- A value in `0..MAX` fits a `Word`. -/
theorem toNat_ofNat_of_le_max {n : Nat} (h : n ≤ 65535) : (BitVec.ofNat 16 n).toNat = n :=
  (BitVec.toNat_ofNat n 16).trans (Nat.mod_eq_of_lt (Nat.lt_succ_of_le h))

/-! ### Saturating addition (R101) -/

theorem toNat_satAdd (a b : Word) : (satAdd a b).toNat = min (a.toNat + b.toNat) 65535 :=
  toNat_ofNat_of_le_max (Nat.min_le_right ..)

theorem le_toNat_satAdd (a b : Word) : a.toNat ≤ (satAdd a b).toNat := by
  rw [toNat_satAdd]
  exact Nat.le_min.mpr ⟨Nat.le_add_right .., word_toNat_le_max a⟩

theorem toNat_satAdd_eq_max_iff (a b : Word) : (satAdd a b).toNat = 65535 ↔ 65535 ≤ a.toNat + b.toNat := by
  rw [toNat_satAdd, min_eq_right_iff]

theorem satAdd_comm (a b : Word) : satAdd a b = satAdd b a := by
  apply BitVec.eq_of_toNat_eq
  rw [toNat_satAdd, toNat_satAdd, Nat.add_comm]

theorem satAdd_zero (a : Word) : satAdd a 0#16 = a := by
  apply BitVec.eq_of_toNat_eq
  rw [toNat_satAdd]
  exact Nat.min_eq_left (word_toNat_le_max a)

theorem satAdd_max_left (b : Word) : satAdd 65535#16 b = 65535#16 :=
  BitVec.eq_of_toNat_eq ((toNat_satAdd_eq_max_iff ..).mpr (Nat.le_add_right ..))

/-- Settles O21, from the sum `satAdd` stands for (`toNat_satAdd`). -/
theorem satAddLimitsSum : Obligations.SatAddLimitsSum := by
  refine ⟨fun a b => ⟨toNat_satAdd a b, le_toNat_satAdd a b, toNat_satAdd_eq_max_iff a b, satAdd_comm a b, satAdd_zero a,
    satAdd_max_left b⟩, ?overflow, ?exact⟩
  case overflow | exact => decide

/-! ### Saturating subtraction (R102) -/

/-- The integer difference limited to 0 is the truncated difference of the naturals. -/
theorem toNat_satSub (a b : Word) : (satSub a b).toNat = a.toNat - b.toNat := by
  have hdiff : (max ((a.toNat : Int) - b.toNat) 0).toNat = a.toNat - b.toNat := by omega
  rw [satSub, hdiff]
  exact toNat_ofNat_of_le_max ((Nat.sub_le ..).trans (word_toNat_le_max a))

theorem satSub_eq_zero_of_le {a b : Word} (h : a.toNat ≤ b.toNat) : satSub a b = 0#16 := by
  apply BitVec.eq_of_toNat_eq
  rw [toNat_satSub]
  exact Nat.sub_eq_zero_of_le h

theorem satSub_zero (a : Word) : satSub a 0#16 = a :=
  BitVec.eq_of_toNat_eq (toNat_satSub a 0#16)

/-- Settles O22: the three zeros of R102 are one, that of an `a` not above `b`. -/
theorem satSubStopsAtZero : Obligations.SatSubStopsAtZero := by
  refine ⟨fun a b => ⟨?difference, ?below, satSub_zero a, ?same, ?fromZero⟩, ?stopped, ?exact⟩
  case difference => rw [toNat_satSub]; omega
  case below => exact fun hlt => satSub_eq_zero_of_le hlt.le
  case same => exact satSub_eq_zero_of_le le_rfl
  case fromZero => exact satSub_eq_zero_of_le (Nat.zero_le _)
  case stopped | exact => decide

end Sys2Proof.Machine
end

section
/-! SUPPORT. The gamma stage (R115 to R119): the clamp as a limit to both ends of `[0, 1]`, `G(in)` as the clamped polynomial,
and `gamma_pixel` as a floor that fits the word because `G(in)` is at most 1. -/

namespace Sys2Proof.Machine

/-! ### The clamp (R116) -/

theorem clampUnit_eq_min_max (v : Rat) : clampUnit v = min (max v 0) 1 := by
  unfold clampUnit
  split
  case isTrue hneg => rw [max_eq_right hneg.le, min_eq_left zero_le_one]
  case isFalse hnonneg =>
    rw [max_eq_left (not_lt.mp hnonneg)]
    split
    case isTrue hbig => exact (min_eq_right hbig.le).symm
    case isFalse hsmall => exact (min_eq_left (not_lt.mp hsmall)).symm

theorem clampUnit_nonneg (v : Rat) : 0 ≤ clampUnit v := by
  rw [clampUnit_eq_min_max]
  exact le_min (le_max_right v 0) zero_le_one

theorem clampUnit_le_one (v : Rat) : clampUnit v ≤ 1 := by
  rw [clampUnit_eq_min_max]
  exact min_le_right ..

/-! ### The curve `G(in)` (R115, R117, R118) -/

/-- On the framer's domain `[0, 1]` the evaluator's change of variable is `u = 2 (in / MAX) - 1`. -/
theorem approxCode_eq_polynomial (c : Coef Rat) (input : Word) {u : Rat} (hu : u = 2 * ((input.toNat : Rat) / 65535) - 1) :
    approxCode c input = c.c0 + c.c1 * u + c.c2 * (2 * u ^ 2 - 1) + c.c3 * (4 * u ^ 3 - 3 * u) := by
  have hvar : (((2 : Nat) : Rat) * ((input.toNat : Rat) / (Config.maxBrightness : Rat)) - Config.gammaDomainLow -
      Config.gammaDomainHigh) / (Config.gammaDomainHigh - Config.gammaDomainLow) = u := by
    rw [hu]
    norm_num
  rw [approxCode, approx, hvar, chebyshev2, chebyshev3]
  push_cast
  ring

theorem gammaOf_nonneg (c : Coef Rat) (input : Word) : 0 ≤ gammaOf c input := clampUnit_nonneg _

theorem gammaOf_le_one (c : Coef Rat) (input : Word) : gammaOf c input ≤ 1 := clampUnit_le_one _

/-! ### The gamma pixel (R119) -/

theorem floor_gammaOf_mul_nonneg (c : Coef Rat) (input b : Word) : 0 ≤ ⌊gammaOf c input * (b.toNat : Rat)⌋ :=
  Int.floor_nonneg.mpr (mul_nonneg (gammaOf_nonneg c input) (Nat.cast_nonneg _))

theorem floor_gammaOf_mul_le (c : Coef Rat) (input b : Word) : ⌊gammaOf c input * (b.toNat : Rat)⌋ ≤ b.toNat := by
  have hle : gammaOf c input * (b.toNat : Rat) ≤ b.toNat :=
    mul_le_of_le_one_left (Nat.cast_nonneg _) (gammaOf_le_one c input)
  simpa using Int.floor_mono hle

/-- The floor lies in `0..B`, so putting it in 16 bits loses nothing. -/
theorem toNat_gammaPixel (c : Coef Rat) (input b : Word) :
    ((gammaPixel c input b).toNat : Int) = ⌊gammaOf c input * (b.toNat : Rat)⌋ := by
  have hnonneg := floor_gammaOf_mul_nonneg c input b
  have hfits : ⌊gammaOf c input * (b.toNat : Rat)⌋.toNat ≤ 65535 :=
    (Int.toNat_le.mpr (floor_gammaOf_mul_le c input b)).trans (word_toNat_le_max b)
  calc ((gammaPixel c input b).toNat : Int)
      = (⌊gammaOf c input * (b.toNat : Rat)⌋.toNat : Int) := congrArg Nat.cast (toNat_ofNat_of_le_max hfits)
    _ = ⌊gammaOf c input * (b.toNat : Rat)⌋ := Int.toNat_of_nonneg hnonneg

theorem toNat_gammaPixel_le (c : Coef Rat) (input b : Word) : (gammaPixel c input b).toNat ≤ b.toNat := by
  have hle := floor_gammaOf_mul_le c input b
  rw [← toNat_gammaPixel] at hle
  exact Int.ofNat_le.mp hle

/-- A word is the gamma pixel when `G(in) * B` lies from it up to, and not including, the next integer. -/
theorem gammaPixel_eq_iff (c : Coef Rat) (input b w : Word) :
    gammaPixel c input b = w ↔
      (w.toNat : Rat) ≤ gammaOf c input * b.toNat ∧ gammaOf c input * b.toNat < w.toNat + 1 := by
  have hfloor := Int.floor_eq_iff (a := gammaOf c input * (b.toNat : Rat)) (z := (w.toNat : Int))
  rw [← toNat_gammaPixel, Int.cast_natCast, Nat.cast_inj] at hfloor
  exact BitVec.toNat_inj.symm.trans hfloor

/-- Where `G(in) * B` is an integer, it is the gamma pixel. -/
theorem gammaPixel_eq_of_mul_eq {c : Coef Rat} {input b w : Word} (h : gammaOf c input * b.toNat = w.toNat) :
    gammaPixel c input b = w := by
  rw [gammaPixel_eq_iff, h]
  exact ⟨le_rfl, lt_add_one _⟩

theorem gammaPixel_bright_zero (c : Coef Rat) (input : Word) : gammaPixel c input 0#16 = 0#16 :=
  gammaPixel_eq_of_mul_eq (by simp)

theorem gammaPixel_of_gammaOf_one {c : Coef Rat} {input : Word} (b : Word) (h : gammaOf c input = 1) :
    gammaPixel c input b = b :=
  gammaPixel_eq_of_mul_eq (by rw [h, one_mul])

theorem gammaPixel_of_gammaOf_zero {c : Coef Rat} {input : Word} (b : Word) (h : gammaOf c input = 0) :
    gammaPixel c input b = 0#16 :=
  gammaPixel_eq_of_mul_eq (by rw [h, zero_mul]; rfl)

/-- Settles O26: `G(in)` is the clamped polynomial (`clampUnit_eq_min_max`, `approxCode_eq_polynomial`), the pixel its floor
(`toNat_gammaPixel`), and the corner cases are those where `G(in) * B` is an integer. -/
theorem gammaPixelIsFloor : Obligations.GammaPixelIsFloor := by
  refine ⟨fun c input b u hu => ⟨?clamped, toNat_gammaPixel c input b, toNat_gammaPixel_le c input b,
    gammaPixel_bright_zero c input, gammaPixel_of_gammaOf_one b, gammaPixel_of_gammaOf_zero b⟩, ?reference⟩
  case clamped => rw [gammaOf, clampUnit_eq_min_max, approxCode_eq_polynomial c input hu]
  case reference =>
    rw [gammaPixel_eq_iff, gammaOf, clampUnit_eq_min_max, approxCode_eq_polynomial _ _ rfl]
    norm_num [Config.referenceCoef]

end Sys2Proof.Machine
end

section
/-! SUPPORT. The pixel function (R135, R136): one equation per path. On the linear path the zero rule is already in `sat_mul`;
on the gamma path it stands apart, because `G(0)` need not be 0. -/

namespace Sys2Proof.Machine

/-! ### Saturating multiplication (R104) -/

theorem toNat_satMul (a b : Word) : (satMul a b).toNat = min (a.toNat * b.toNat) 65535 :=
  toNat_ofNat_of_le_max (Nat.min_le_right ..)

theorem satMul_comm (a b : Word) : satMul a b = satMul b a := by
  apply BitVec.eq_of_toNat_eq
  rw [toNat_satMul, toNat_satMul, Nat.mul_comm]

theorem satMul_zero (a : Word) : satMul a 0#16 = 0#16 :=
  BitVec.eq_of_toNat_eq (toNat_satMul a 0#16)

theorem satMul_one (a : Word) : satMul a 1#16 = a := by
  apply BitVec.eq_of_toNat_eq
  rw [toNat_satMul, BitVec.toNat_one (by decide), Nat.mul_one]
  exact Nat.min_eq_left (word_toNat_le_max a)

/-! ### The two paths of the pixel function (R135, R136) -/

theorem pixel_input_zero (p : Config.Params) (b : Word) : pixel p 0#16 b = 0#16 := if_pos rfl

theorem pixel_of_gammaEn {p : Config.Params} {input : Word} (b : Word) (hin : input ≠ 0#16) (hgamma : p.gammaEn = true) :
    pixel p input b = gammaPixel p.coef input b := by
  rw [pixel, if_neg hin, if_pos hgamma]

/-- Without gamma the zero rule changes nothing: `sat_mul(0, B)` is 0 by itself. -/
theorem pixel_of_linear {p : Config.Params} (input b : Word) (hlinear : p.gammaEn = false) :
    pixel p input b = satMul input b := by
  rw [pixel, hlinear]
  split
  case isTrue hzero => rw [hzero, satMul_comm, satMul_zero]
  case isFalse => rfl

theorem pixel_bright_zero (p : Config.Params) (input : Word) : pixel p input 0#16 = 0#16 := by
  by_cases hin : input = 0#16
  · rw [hin, pixel_input_zero]
  · cases hpath : p.gammaEn with
    | true => rw [pixel_of_gammaEn _ hin hpath, gammaPixel_bright_zero]
    | false => rw [pixel_of_linear _ _ hpath, satMul_zero]

/-- The reference table's polynomial passes 1 at the largest input (R122), so the clamp makes it full brightness. -/
theorem gammaOf_referenceCoef_max : gammaOf Config.referenceCoef 65535#16 = 1 := by
  rw [gammaOf, clampUnit_eq_min_max, approxCode_eq_polynomial _ _ rfl]
  norm_num [Config.referenceCoef]

/-- Settles O28: each path has its equation (`pixel_of_gammaEn`, `pixel_of_linear`), and `gamma_pixel` and `sat_mul` have the
value and the corner cases R136 names. -/
theorem pixelFunction : Obligations.PixelFunction := by
  refine ⟨fun p input b => ⟨pixel_input_zero p b, pixel_bright_zero p input, ?gamma, ?linear, ?linearOne⟩,
    ?gammaExample, ?linearExample⟩
  case gamma =>
    intro hin hgamma
    rw [pixel_of_gammaEn b hin hgamma]
    exact ⟨toNat_gammaPixel p.coef input b, toNat_gammaPixel_le p.coef input b⟩
  case linear =>
    intro _ hlinear
    rw [pixel_of_linear input b hlinear, toNat_satMul]
  case linearOne =>
    intro hlinear
    rw [pixel_of_linear input _ hlinear, satMul_one]
  case gammaExample =>
    rw [pixel_of_gammaEn _ (by decide) rfl]
    exact gammaPixel_of_gammaOf_one _ gammaOf_referenceCoef_max
  case linearExample => decide

end Sys2Proof.Machine
end

section
/-! SUPPORT. The frame a TICK sends: on a buffer of `N` elements the words the plan of TRANSMIT reads from the state (R156)
are the words the table of R89 lists. -/

namespace Sys2Proof.Machine

theorem Memory.read_eq_getElem {m : Memory} {i : Nat} (h : i < m.length) : m.read i = m[i] :=
  List.getD_eq_getElem m 0 h

/-- Reading a buffer in canonical form at every LED index gives back its elements in order (R22). -/
theorem Memory.map_read_range {m : Memory} {n : Nat} (h : m.length = n) : (List.range n).map m.read = m := by
  apply List.ext_getElem
  · rw [List.length_map, List.length_range, h]
  · intro i _ hi
    rw [List.getElem_map, List.getElem_range, Memory.read_eq_getElem hi]

/-- The LED slots read the buffer from the highest index down, so their words are the reversed buffer's. -/
theorem slotWords_framePlan {s : State} (h : s.tx.length = s.par.n) :
    slotWords s (framePlan s.par) = frameWords s.par s.tx := by
  have hleds : s.tx.reverse = (List.range s.par.n).reverse.map s.tx.read := by
    rw [List.map_reverse, Memory.map_read_range h]
  rw [frameWords, hleds]
  simp [slotWords, framePlan, Slot.value, Function.comp_def]

/-- Everything TRANSMIT does on a buffer in canonical form: the frame of R89 on the wire, the serial lines low, `READY`
cleared (R156, R159). -/
theorem transmit_of_tx_length {s : State} (h : s.tx.length = s.par.n) :
    transmit s =
      { s with
        wire := s.wire ++ frameEvents s.par s.tx
        clk := false
        dat := false
        lat := false
        seq := .idle
        ready := false } := by
  rw [transmit_spec, slotWords_framePlan h, frameEvents]

/-- `FRAME` wraps (R31, R192). -/
theorem countFrame_eq (s : State) :
    s.countFrame = { s with frame := BitVec.ofNat 32 ((s.frame.toNat + 1) % 2 ^ 32) } := by
  have hcount : (s.frame + 1).toNat = (s.frame.toNat + 1) % 2 ^ 32 := BitVec.toNat_add s.frame 1
  rw [← hcount, BitVec.ofNat_toNat, BitVec.setWidth_eq, State.countFrame]

/-- Settles O42: `HOSTOP` decides which branch the TICK takes (`tick_eq_next`, `tick_eq_fault`); the frame is
`transmit_of_tx_length`, the count `countFrame_eq`, and `raise` sets the one bit. -/
theorem tickSendsFrame : Obligations.TickSendsFrame := by
  intro s htx
  refine ⟨fun hfree => ?sends, fun hserial => ?collides⟩
  case sends =>
    refine tick_eq_next.2 ⟨hfree, ?_⟩
    rw [transmit_of_tx_length htx, countFrame_eq]
  case collides => exact tick_eq_fault.2 ⟨hserial, rfl⟩

end Sys2Proof.Machine
end

section
/-! SUPPORT. A command word as its three fields (R70): each row of the opcode map (R75) is a condition on the fields, and so
are the items of R86. Encoding and decoding are inverse to each other. -/

namespace Sys2Proof

/-! ### The three fields of a word (R70) -/

/-- The command word with these fields. -/
def fieldWord (op : BitVec 4) (a : BitVec 12) (d : Word) : Cmd := (op ++ a : BitVec 16) ++ d

theorem formatC_eq_fieldWord (op a : Nat) (d : Word) :
    formatC op a d = fieldWord (BitVec.ofNat 4 op) (BitVec.ofNat 12 a) d := rfl

theorem append_inj {m n : Nat} {x x' : BitVec m} {y y' : BitVec n} : x ++ y = x' ++ y' ↔ x = x' ∧ y = y' := by
  constructor
  · intro h
    have hx : x = x' := by
      rw [← BitVec.extractLsb'_append_eq_left (a := x) (b := y), h, BitVec.extractLsb'_append_eq_left]
    have hy : y = y' := by
      rw [← BitVec.extractLsb'_append_eq_right (a := x) (b := y), h, BitVec.extractLsb'_append_eq_right]
    exact ⟨hx, hy⟩
  · rintro ⟨rfl, rfl⟩
    rfl

theorem fieldWord_inj {op op' : BitVec 4} {a a' : BitVec 12} {d d' : Word} :
    fieldWord op a d = fieldWord op' a' d' ↔ op = op' ∧ a = a' ∧ d = d' := by
  rw [fieldWord, fieldWord, append_inj, append_inj, and_assoc]

theorem fieldWord_and (op op' : BitVec 4) (a a' : BitVec 12) (d d' : Word) :
    fieldWord op a d &&& fieldWord op' a' d' = fieldWord (op &&& op') (a &&& a') (d &&& d') := by
  rw [fieldWord, fieldWord, BitVec.and_append, BitVec.and_append, fieldWord]

/-- Every word is that of its fields. -/
theorem exists_eq_fieldWord (c : Cmd) : ∃ op a d, c = fieldWord op a d := by
  refine ⟨(c.extractLsb' 16 16).extractLsb' 12 4, (c.extractLsb' 16 16).extractLsb' 0 12, c.extractLsb' 0 16, ?_⟩
  have hhigh := BitVec.extractLsb'_append_extractLsb' (w := 4) (len := 12) (x := c.extractLsb' 16 16)
  have hword := BitVec.extractLsb'_append_extractLsb' (w := 16) (len := 16) (x := c)
  rw [fieldWord, hhigh, hword]

section
variable (op : BitVec 4) (a : BitVec 12) (d : Word)

theorem fieldWord_op : (fieldWord op a d).extractLsb' 28 4 = op := by
  rw [fieldWord, BitVec.extractLsb'_append_eq_of_le (by decide), BitVec.extractLsb'_append_eq_left]

theorem fieldWord_a : (fieldWord op a d).extractLsb' 16 12 = a := by
  rw [fieldWord, BitVec.extractLsb'_append_eq_of_le (by decide), BitVec.extractLsb'_append_eq_right]

theorem fieldWord_d : (fieldWord op a d).extractLsb' 0 16 = d := BitVec.extractLsb'_append_eq_right

theorem fieldWord_high : (fieldWord op a d).extractLsb' 21 7 = a.extractLsb' 5 7 := by
  rw [fieldWord, BitVec.extractLsb'_append_eq_of_le (by decide), BitVec.extractLsb'_append_eq_of_add_le (by decide)]

theorem aField_fieldWord : aField (fieldWord op a d) = a.toNat := by
  rw [aField_eq_extractLsb', fieldWord_a]

theorem dField_fieldWord : dField (fieldWord op a d) = d := by
  rw [dField_eq_extractLsb', fieldWord_d]

/-- `k` is the low part of `a` (R71). -/
theorem kField_eq_aField_mod (c : Cmd) : kField c = aField c % 32 :=
  (Nat.mod_mod_of_dvd _ (by decide : (32 : Nat) ∣ 4096)).symm

/-- A row whose mask covers the whole of `op` matches by `op` and by the other masked bits being zero. -/
theorem fieldWord_matches_iff (v : BitVec 4) (ma : BitVec 12) (md : Word) :
    fieldWord op a d &&& fieldWord 0xF#4 ma md = fieldWord v 0#12 0#16 ↔
      op = v ∧ a &&& ma = 0#12 ∧ d &&& md = 0#16 := by
  have hop : op &&& 0xF#4 = op := BitVec.and_allOnes
  rw [fieldWord_and, fieldWord_inj, hop]

end

/-! ### Bits 27:21 of a PUT_WORD (R71, R86) -/

/-- The bits of `a` above `k` are zero exactly when `a` is below 32. -/
theorem and_putWordMask_eq_zero_iff (a : BitVec 12) : a &&& 0xFE0#12 = 0#12 ↔ a.toNat < 32 := by
  have hlow : a &&& 0xFE0#12 = (a.extractLsb' 5 7 : BitVec 7) ++ 0#5 := by
    have hsplit := BitVec.extractLsb'_append_extractLsb' (w := 7) (len := 5) (x := a)
    have hmask : (0xFE0#12 : BitVec 12) = (BitVec.allOnes 7 ++ 0#5 : BitVec 12) := by decide
    rw [hmask]
    conv_lhs => rw [← hsplit]
    rw [BitVec.and_append, BitVec.and_allOnes, BitVec.and_zero]
  have hzero : (0#12 : BitVec 12) = (0#7 ++ 0#5 : BitVec 12) := by decide
  rw [hlow, hzero, append_inj, ← BitVec.toNat_inj, BitVec.extractLsb'_toNat, Nat.shiftRight_eq_div_pow]
  have ha := a.isLt
  simp
  omega

theorem extractLsb'_high_eq_zero_iff (a : BitVec 12) : a.extractLsb' 5 7 = 0#7 ↔ a.toNat < 32 := by
  rw [← BitVec.toNat_inj, BitVec.extractLsb'_toNat, Nat.shiftRight_eq_div_pow]
  have ha := a.isLt
  simp
  omega

/-! ### Decode and encode are inverse to each other -/

theorem decode_eq_ok_iff {c : Cmd} {i : Instr} :
    decode c = .ok i ↔ ∃ r ∈ opcodeRows, c &&& r.mask = r.mtch ∧ r.build c = i := by
  constructor
  · intro h
    by_contra hno
    have hrows : ∀ r ∈ opcodeRows, c &&& r.mask ≠ r.mtch := fun r hr hm => by
      rw [decode_of_row hr hm] at h
      exact hno ⟨r, hr, hm, Except.ok.inj h⟩
    rw [decode_of_no_row hrows] at h
    cases h
  · rintro ⟨r, hr, hm, rfl⟩
    exact decode_of_row hr hm

theorem decode_eq_error_iff {c : Cmd} :
    (∃ why, decode c = .error why) ↔ ∀ r ∈ opcodeRows, c &&& r.mask ≠ r.mtch := by
  constructor
  · rintro ⟨why, h⟩ r hr hm
    rw [decode_of_row hr hm] at h
    cases h
  · exact fun h => ⟨_, decode_of_no_row h⟩

/-- Settles O5: the word of each command matches the row it comes from, and the row reads the operands back from the fields
they were put in. -/
theorem decodeOfEncode : Obligations.DecodeOfEncode := by
  intro i hwf
  cases i with
  | drawWr idx val =>
    have hidx : idx < 4096 := by simpa [Instr.wellFormed] using hwf
    have hm := (fieldWord_matches_iff 1#4 (BitVec.ofNat 12 idx) val 1#4 0#12 0#16).2 (by simp)
    refine decode_eq_ok_iff.2 ⟨⟨_, _, fun c => .drawWr (aField c) (dField c)⟩, by simp [opcodeRows], hm, ?_⟩
    simp only [encode, formatC_eq_fieldWord, aField_fieldWord, dField_fieldWord, BitVec.toNat_ofNat]
    rw [Nat.mod_eq_of_lt hidx]
  | drawRd idx =>
    have hidx : idx < 4096 := by simpa [Instr.wellFormed] using hwf
    have hm := (fieldWord_matches_iff 2#4 (BitVec.ofNat 12 idx) 0#16 2#4 0#12 0xFFFF#16).2 (by simp)
    refine decode_eq_ok_iff.2 ⟨⟨_, _, fun c => .drawRd (aField c)⟩, by simp [opcodeRows], hm, ?_⟩
    simp only [encode, formatC_eq_fieldWord, aField_fieldWord, BitVec.toNat_ofNat]
    rw [Nat.mod_eq_of_lt hidx]
  | setBright val =>
    have hm := (fieldWord_matches_iff 3#4 0#12 val 3#4 0xFFF#12 0#16).2 (by simp)
    refine decode_eq_ok_iff.2 ⟨⟨_, _, fun c => .setBright (dField c)⟩, by simp [opcodeRows], hm, ?_⟩
    simp only [encode, formatC_eq_fieldWord, dField_fieldWord]
  | putWord k val =>
    have hk : k < 32 := by simpa [Instr.wellFormed] using hwf
    have hk12 : (BitVec.ofNat 12 k).toNat = k := by
      rw [BitVec.toNat_ofNat, Nat.mod_eq_of_lt (hk.trans (by decide))]
    have hm := (fieldWord_matches_iff 7#4 (BitVec.ofNat 12 k) val 7#4 0xFE0#12 0#16).2
      ⟨rfl, (and_putWordMask_eq_zero_iff _).2 (hk12.symm ▸ hk), by simp⟩
    refine decode_eq_ok_iff.2 ⟨⟨_, _, fun c => .putWord (kField c) (dField c)⟩, by simp [opcodeRows], hm, ?_⟩
    simp only [encode, formatC_eq_fieldWord, kField_eq_aField_mod, aField_fieldWord, dField_fieldWord, hk12]
    rw [Nat.mod_eq_of_lt hk]
  | clear | correct | writeFrame | writeConfig | start | stop =>
    exact decode_of_full_mask (m := encode _) (by simp [opcodeRows, encode, formatC]) rfl

/-- A row rebuilds the word it matches: the bits its mask leaves out are the operand's (R71, R75). -/
theorem encode_build_of_matches (c : Cmd) :
    ∀ r ∈ opcodeRows, c &&& r.mask = r.mtch → (r.build c).wellFormed = true ∧ encode (r.build c) = c := by
  obtain ⟨op, a, d, rfl⟩ := exists_eq_fieldWord c
  have hfull : ∀ {m : Cmd}, fieldWord op a d &&& 0xFFFFFFFF#32 = m → m = fieldWord op a d :=
    fun h => h.symm.trans BitVec.and_allOnes
  simp only [opcodeRows, List.forall_mem_cons, List.not_mem_nil, false_imp_iff, implies_true, and_true]
  refine ⟨?drawWr, ?drawRd, ?setBright, ?clear, ?correct, ?writeFrame, ?putWord, ?writeConfig, ?start, ?stop⟩ <;>
    intro hm
  case drawWr =>
    obtain ⟨rfl, -, -⟩ := (fieldWord_matches_iff op a d 1#4 0#12 0#16).1 hm
    simp [Instr.wellFormed, encode, formatC_eq_fieldWord, aField_fieldWord, dField_fieldWord, a.isLt]
  case drawRd =>
    obtain ⟨rfl, -, hd⟩ := (fieldWord_matches_iff op a d 2#4 0#12 0xFFFF#16).1 hm
    have hd0 : d = 0#16 := BitVec.and_allOnes.symm.trans hd
    simp [Instr.wellFormed, encode, formatC_eq_fieldWord, aField_fieldWord, a.isLt, hd0]
  case setBright =>
    obtain ⟨rfl, ha, -⟩ := (fieldWord_matches_iff op a d 3#4 0xFFF#12 0#16).1 hm
    have ha0 : a = 0#12 := BitVec.and_allOnes.symm.trans ha
    simp [Instr.wellFormed, encode, formatC_eq_fieldWord, dField_fieldWord, ha0]
  case putWord =>
    obtain ⟨rfl, ha, -⟩ := (fieldWord_matches_iff op a d 7#4 0xFE0#12 0#16).1 hm
    have hlt : a.toNat < 32 := (and_putWordMask_eq_zero_iff a).1 ha
    have hk : a.toNat % 32 = a.toNat := Nat.mod_eq_of_lt hlt
    simp [Instr.wellFormed, encode, formatC_eq_fieldWord, kField_eq_aField_mod, aField_fieldWord, dField_fieldWord, hk, hlt]
  case clear | correct | writeFrame | writeConfig | start | stop => exact ⟨rfl, hfull hm⟩

/-- Settles O6: the row that decodes a word rebuilds it (`encode_build_of_matches`). -/
theorem encodeOfDecode : Obligations.EncodeOfDecode := by
  intro c i h
  obtain ⟨r, hr, hm, rfl⟩ := decode_eq_ok_iff.1 h
  exact encode_build_of_matches c r hr hm

/-! ### The reserved words (R86) -/

/-- Which fields each row of R75 asks for, in the order of the map. -/
theorem fieldWord_no_row_iff (op : BitVec 4) (a : BitVec 12) (d : Word) :
    (∀ r ∈ opcodeRows, fieldWord op a d &&& r.mask ≠ r.mtch) ↔
      op ≠ 1#4 ∧ ¬ (op = 2#4 ∧ d = 0) ∧ ¬ (op = 3#4 ∧ a = 0) ∧ ¬ (op = 4#4 ∧ a = 0 ∧ d = 0) ∧
        ¬ (op = 5#4 ∧ a = 0 ∧ d = 0) ∧ ¬ (op = 6#4 ∧ a = 0 ∧ d = 0) ∧ ¬ (op = 7#4 ∧ a.toNat < 32) ∧
        ¬ (op = 8#4 ∧ a = 0 ∧ d = 0) ∧ ¬ (op = 9#4 ∧ a = 0 ∧ d = 0) ∧ ¬ (op = 10#4 ∧ a = 0 ∧ d = 0) := by
  have ha : a &&& 0xFFF#12 = a := BitVec.and_allOnes
  have hd : d &&& 0xFFFF#16 = d := BitVec.and_allOnes
  have row : ∀ (v : BitVec 4) (ma : BitVec 12) (md : Word),
      fieldWord op a d &&& fieldWord 0xF#4 ma md ≠ fieldWord v 0#12 0#16 ↔
        ¬ (op = v ∧ a &&& ma = 0#12 ∧ d &&& md = 0#16) :=
    fun v ma md => not_congr (fieldWord_matches_iff op a d v ma md)
  have hrows : (∀ r ∈ opcodeRows, fieldWord op a d &&& r.mask ≠ r.mtch) ↔ _ := List.forall_mem_cons.trans <|
    and_congr (row 1#4 0#12 0#16) <| List.forall_mem_cons.trans <|
    and_congr (row 2#4 0#12 0xFFFF#16) <| List.forall_mem_cons.trans <|
    and_congr (row 3#4 0xFFF#12 0#16) <| List.forall_mem_cons.trans <|
    and_congr (row 4#4 0xFFF#12 0xFFFF#16) <| List.forall_mem_cons.trans <|
    and_congr (row 5#4 0xFFF#12 0xFFFF#16) <| List.forall_mem_cons.trans <|
    and_congr (row 6#4 0xFFF#12 0xFFFF#16) <| List.forall_mem_cons.trans <|
    and_congr (row 7#4 0xFE0#12 0#16) <| List.forall_mem_cons.trans <|
    and_congr (row 8#4 0xFFF#12 0xFFFF#16) <| List.forall_mem_cons.trans <|
    and_congr (row 9#4 0xFFF#12 0xFFFF#16) <| List.forall_mem_singleton.trans (row 10#4 0xFFF#12 0xFFFF#16)
  rw [hrows, ha, hd, and_putWordMask_eq_zero_iff]
  simp

/-- R86's list asks for the same fields: what no row of R75 takes. -/
theorem isReservedWord_fieldWord_iff (op : BitVec 4) (a : BitVec 12) (d : Word) :
    Machine.IsReservedWord (fieldWord op a d) ↔ ∀ r ∈ opcodeRows, fieldWord op a d &&& r.mask ≠ r.mtch := by
  rw [fieldWord_no_row_iff, Machine.IsReservedWord, fieldWord_op, fieldWord_a, fieldWord_d, fieldWord_high]
  have hhigh : a.extractLsb' 5 7 ≠ 0 ↔ ¬ a.toNat < 32 := not_congr (extractLsb'_high_eq_zero_iff a)
  rw [hhigh]
  generalize hz : (a.toNat < 32) = z
  have hop : ∀ v : BitVec 4, v ∈ (List.range 16).map (BitVec.ofNat 4) := by decide
  have := hop op
  simp only [List.range, List.range.loop, List.map_cons, List.map_nil, List.mem_cons, List.not_mem_nil, or_false] at this
  rcases this with rfl | rfl | rfl | rfl | rfl | rfl | rfl | rfl | rfl | rfl | rfl | rfl | rfl | rfl | rfl | rfl <;>
    simp [-not_and, not_and_or]

theorem decode_eq_error_iff_isReservedWord (c : Cmd) : (∃ why, decode c = .error why) ↔ Machine.IsReservedWord c := by
  obtain ⟨op, a, d, rfl⟩ := exists_eq_fieldWord c
  rw [decode_eq_error_iff, isReservedWord_fieldWord_iff]

end Sys2Proof
end

section
/-! SUPPORT. What the next step is (R57, R58, R76, R186), one equation for each input, and the commands of one micro-step. -/

namespace Sys2Proof.Machine

/-! ### One equation for each input of a step -/

theorem step_of_tick {s : State} {rest : List Nat} (h : s.ticks = 0 :: rest) : step s = tick (s.setTicks rest) := by
  simp [step, nextInput, tickDue, h]

theorem step_of_decode_ok {s : State} {c : Cmd} {cs : List Cmd} {i : Instr} (hdue : tickDue s = false)
    (hcmds : s.cmds = c :: cs) (hdec : decode c = .ok i) : step s = exec i (s.setCmds cs) := by
  simp [step, nextInput, hdue, hcmds, hdec]

theorem step_of_decode_error {s : State} {c : Cmd} {cs : List Cmd} {why : Reserved} (hdue : tickDue s = false)
    (hcmds : s.cmds = c :: cs) (hdec : decode c = .error why) : step s = illegal (s.setCmds cs) := by
  simp [step, nextInput, hdue, hcmds, hdec]

theorem step_of_idle {s : State} (hdue : tickDue s = false) (hcmds : s.cmds = []) : step s = .next s.countdown := by
  simp [step, nextInput, hdue, hcmds, waitInput]

theorem tickDue_eq_false_of_quiet {s : State} (h : s.quiet 1 = true) : tickDue s = false := by
  rw [tickDue_eq_not_quiet, h, Bool.not_true]

theorem decode_of_decodeTableWord {w : Nat} {i : Instr} (h : decodeTableWord 32 w = some i) :
    decode (BitVec.ofNat 32 (w % 2 ^ 32)) = .ok i := by
  rw [decodeTableWord, if_pos le_rfl] at h
  split at h
  case h_1 hdec => rw [hdec, Option.some.inj h]
  case h_2 => cases h

/-- The TICKs due at once are gone from the schedule of a placed command. -/
theorem tickDue_withFetchWord (s : State) (nbits w : Nat) : tickDue (s.withFetchWord nbits w) = false := by
  have hhead := List.head?_dropWhile_not (fun k => k == 0) s.ticks
  rw [tickDue]
  split
  case h_1 rest heq =>
    have hticks : s.ticks.dropWhile (fun k => k == 0) = 0 :: rest := heq
    simp [hticks] at hhead
  case h_2 => rfl

/-- Settles O1: the equation of a decoded command (`step_of_decode_ok`), for a word at the head of the port and for a placed
one. -/
theorem stepRunsDecodedCommand : Obligations.StepRunsDecodedCommand := by
  refine ⟨fun s c cs i hdue hcmds hdec => ⟨(encodeOfDecode c i hdec).1, step_of_decode_ok hdue hcmds hdec⟩, ?placed⟩
  case placed =>
    intro s w i h
    exact step_of_decode_ok (tickDue_withFetchWord s 32 w) rfl (decode_of_decodeTableWord h)

/-- Settles O2: the equations of a due TICK and of waiting. -/
theorem stepServesTickOrWaits : Obligations.StepServesTickOrWaits :=
  ⟨fun _ _ h => step_of_tick h, fun _ hdue hcmds => step_of_idle hdue hcmds⟩

/-- Settles O3: R86's list is what no row of R75 takes, and a word without a row raises `F_ILLEGAL` in one micro-step. -/
theorem reservedWordRaisesIllegal : Obligations.ReservedWordRaisesIllegal := by
  refine ⟨decode_eq_error_iff_isReservedWord, fun s c cs hquiet hcmds hres => ?_⟩
  obtain ⟨why, hdec⟩ := (decode_eq_error_iff_isReservedWord c).2 hres
  have hquiet' : (s.setCmds cs).quiet 1 = true := hquiet
  rw [step_of_decode_error (tickDue_eq_false_of_quiet hquiet) hcmds hdec, illegal, micro_of_quiet hquiet']
  rfl

/-- Settles O7: the words of V50. -/
theorem sampleWordsDecode : Obligations.SampleWordsDecode := by
  refine ⟨?_, ?_, ?_, ?_, ?_, ?_, ?_⟩ <;> decide

/-! ### The draw-buffer port and the brightness register (R130 to R133) -/

theorem withIndex_of_lt {s : State} {idx : Nat} (act : State → State) (h : idx < s.par.n) :
    withIndex idx act s = act s := if_pos h

theorem withIndex_of_le {s : State} {idx : Nat} (act : State → State) (h : s.par.n ≤ idx) :
    withIndex idx act s = raise .index s := if_neg (Nat.not_lt.2 h)

/-- R132, for the micro-step of either access. -/
theorem micro_withIndex_of_le {s : State} {idx : Nat} (act : State → State) (hquiet : s.quiet 1 = true)
    (h : s.par.n ≤ idx) :
    micro (withIndex idx act) s = .next { s with fault := s.fault ||| 0b010#3, ticks := elapse 1 s.ticks } := by
  rw [micro_of_quiet hquiet, withIndex_of_le act h]
  rfl

/-- Settles O8: the index decides which branch of `withIndex` the one micro-step takes. -/
theorem drawWriteStoresElement : Obligations.DrawWriteStoresElement := by
  intro s idx val hquiet
  split
  case isTrue h =>
    have hmicro := micro_of_quiet (f := withIndex idx (fun t => t.setDraw (t.draw.write idx val))) hquiet
    rw [withIndex_of_lt _ h] at hmicro
    exact hmicro
  case isFalse h => exact micro_withIndex_of_le _ hquiet (Nat.not_lt.1 h)

/-- Settles O9: an existing index is one of the buffer's elements (R21), and its element is the response. -/
theorem drawReadResponds : Obligations.DrawReadResponds := by
  intro s idx hquiet hbuf
  have hlen : s.draw.length = s.par.n := Memory.wf_length (Bool.and_eq_true_iff.1 hbuf).1
  refine ⟨fun h => ?_, fun h => micro_withIndex_of_le _ hquiet h⟩
  have hmicro := micro_of_quiet (f := withIndex idx (fun t => t.respond (t.draw.read idx))) hquiet
  rw [withIndex_of_lt _ (hlen ▸ h), Memory.read_eq_getElem h] at hmicro
  exact hmicro

/-- Settles O10: both accesses go through `withIndex`. -/
theorem outOfRangeIndexRaisesFault : Obligations.OutOfRangeIndexRaisesFault := by
  rintro s idx i hquiet h (rfl | ⟨val, rfl⟩)
  · exact micro_withIndex_of_le _ hquiet h
  · exact micro_withIndex_of_le _ hquiet h

/-- Settles O11. -/
theorem elementReadAfterWrite : Obligations.ElementReadAfterWrite := by
  intro m i j v hi
  split
  case isTrue h => rw [h, Memory.read_write_self hi]
  case isFalse h => rw [Memory.read_write_of_ne (Ne.symm h)]

/-- Settles O12. -/
theorem setBrightWritesScale : Obligations.SetBrightWritesScale :=
  fun _ _ hquiet => micro_of_quiet hquiet

/-! ### Reset (R37) -/

theorem Params.wf_cfgReset {p : Config.Params} (h : p.wf = true) : p.cfgReset &&& p.enMask = 0#16 :=
  beq_iff_eq.1 (Bool.and_eq_true_iff.1 h).2

theorem resetWith_inv {p : Config.Params} (h : p.wf = true) : Inv (State.resetWith p) := by
  obtain ⟨hdraw, htx⟩ := reset_buffers_wf p
  exact ⟨h, hdraw, htx, rfl, rfl, rfl, rfl, rfl, rfl, BitVec.zero_and⟩

/-- Settles O59: the illustration parameters are legal too. -/
theorem resetHasInvariant : Obligations.ResetHasInvariant :=
  ⟨fun _ h => resetWith_inv h, resetWith_inv (by decide)⟩

theorem read_map_range {n i : Nat} (f : Nat → Word) (h : i < n) : Memory.read ((List.range n).map f) i = f i := by
  rw [Memory.read_eq_getElem (by simpa using h), List.getElem_map, List.getElem_range]

/-- Settles O60: the fields of the reset state; the enable bit by R5's constraint on `CFG_RESET`. -/
theorem resetValues : Obligations.ResetValues := by
  rintro p s rfl
  have henabled : p.wf = true → (State.resetWith p).enabled = false := fun h => by
    simp [State.enabled, State.resetWith, Params.wf_cfgReset h]
  refine ⟨rfl, henabled, rfl, rfl, rfl, rfl, rfl, rfl, rfl, rfl, rfl, rfl, rfl, rfl, ?drawLength, ?txLength, fun i hi =>
    ⟨read_map_range _ hi, read_map_range _ hi⟩⟩
  case drawLength | txLength => simp [State.resetWith]

end Sys2Proof.Machine
end

section
/-! SUPPORT. The other saturating functions (R103, R104, R105) and the padding count (R155): what each is as arithmetic on
naturals or integers. -/

namespace Sys2Proof.Machine

/-! ### Saturating offset (R103) -/

/-- Nothing is lost when the clamped sum is put in 16 bits. -/
theorem toNat_satOffset (v : Word) (d : Int) :
    ((satOffset v d).toNat : Int) = min (max ((v.toNat : Int) + d) 0) 65535 := by
  rw [satOffset, toNat_ofNat_of_le_max (by simp only [Config.maxBrightness]; omega)]
  simp only [Config.maxBrightness]
  omega

theorem toNat_ofNat_min_max (d : Int) : (BitVec.ofNat 16 (min d 65535).toNat).toNat = (min d 65535).toNat :=
  toNat_ofNat_of_le_max (by omega)

theorem satOffset_zero (v : Word) : satOffset v 0 = v := by
  apply BitVec.eq_of_toNat_eq
  have := toNat_satOffset v 0
  have := word_toNat_le_max v
  omega

theorem satOffset_of_nonneg {d : Int} (v : Word) (h : 0 ≤ d) :
    satOffset v d = satAdd v (BitVec.ofNat 16 (min d 65535).toNat) := by
  apply BitVec.eq_of_toNat_eq
  have hoffset := toNat_satOffset v d
  rw [toNat_satAdd, toNat_ofNat_min_max]
  omega

theorem satOffset_of_neg {d : Int} (v : Word) (h : d < 0) :
    satOffset v d = satSub v (BitVec.ofNat 16 (min (-d) 65535).toNat) := by
  apply BitVec.eq_of_toNat_eq
  have hoffset := toNat_satOffset v d
  have hv := word_toNat_le_max v
  rw [toNat_satSub, toNat_ofNat_min_max]
  omega

/-- Settles O23. -/
theorem satOffsetClamps : Obligations.SatOffsetClamps := by
  refine ⟨fun v d => ⟨toNat_satOffset v d, satOffset_zero v, satOffset_of_nonneg v, satOffset_of_neg v⟩, ?below, ?above,
    ?inside⟩
  case below | above | inside => decide

/-! ### Saturating multiplication (R104) and monotonicity (R105) -/

theorem toNat_mul_lt (a b : Word) : a.toNat * b.toNat < 2 ^ 32 :=
  calc a.toNat * b.toNat < 2 ^ 16 * 2 ^ 16 := Nat.mul_lt_mul'' a.isLt b.isLt
    _ = 2 ^ 32 := rfl

theorem toNat_satMul_eq_max_iff (a b : Word) : (satMul a b).toNat = 65535 ↔ 65535 ≤ a.toNat * b.toNat := by
  rw [toNat_satMul, min_eq_right_iff]

/-- Settles O24, from the product `satMul` stands for (`toNat_satMul`). -/
theorem satMulLimitsProduct : Obligations.SatMulLimitsProduct := by
  refine ⟨fun a b => ⟨toNat_satMul a b, toNat_mul_lt a b, satMul_comm a b, satMul_zero a, ?zeroLeft, satMul_one a,
    fun _ _ => toNat_satMul_eq_max_iff a b⟩, ?exact, ?overflow, ?square⟩
  case zeroLeft => rw [satMul_comm, satMul_zero]
  case exact | overflow | square => decide

/-- Settles O25: each function is a monotone expression of its operands, limited. -/
theorem saturatingMonotone : Obligations.SaturatingMonotone := by
  intro a a' b b' d d' ha hb hd
  refine ⟨?add, ?sub, ?offset, ?mul⟩
  case add => simp only [toNat_satAdd]; omega
  case sub => simp only [toNat_satSub]; omega
  case offset =>
    have h := toNat_satOffset a d
    have h' := toNat_satOffset a' d'
    omega
  case mul =>
    rw [toNat_satMul, toNat_satMul]
    exact min_le_min_right _ (Nat.mul_le_mul ha hb)

/-! ### The padding count (R155) -/

/-- Settles O35: `P` completes `N mod 16` to 16. -/
theorem paddingCount : Obligations.PaddingCount := by
  refine ⟨fun n => ⟨rfl, ?bound, ?zero, ?multiple, fun m hm hle => ?least⟩, ?examples⟩
  case examples => decide
  all_goals simp only [padCount, Config.chainAlign]; omega

end Sys2Proof.Machine
end

section
/-! SUPPORT. P1 to P4 of the gamma pixel (R123), and the ranges of the reference table (R122). -/

namespace Sys2Proof.Machine

/-- P4: the floor of a larger product is not smaller. -/
theorem toNat_gammaPixel_mono (c : Coef Rat) (input : Word) {b b' : Word} (h : b.toNat ≤ b'.toNat) :
    (gammaPixel c input b).toNat ≤ (gammaPixel c input b').toNat := by
  have hmul : gammaOf c input * (b.toNat : Rat) ≤ gammaOf c input * (b'.toNat : Rat) :=
    mul_le_mul_of_nonneg_left (Nat.cast_le.2 h) (gammaOf_nonneg c input)
  have hfloor := Int.floor_mono hmul
  rw [← toNat_gammaPixel, ← toNat_gammaPixel] at hfloor
  exact Int.ofNat_le.1 hfloor

theorem correctPixel_read_self {s : State} {i : Nat} (h : i < s.tx.length) :
    (correctPixel i s).tx.read i = pixel s.par (s.draw.read i) s.bright :=
  Memory.read_write_self h _

/-- Settles O27: P3 because a pixel step writes `gamma_pixel` of the table, the element and the brightness alone. -/
theorem gammaPixelProperties : Obligations.GammaPixelProperties := by
  refine ⟨fun c input b b' => ⟨toNat_gammaPixel_le c input b, word_toNat_le_max b, gammaPixel_bright_zero c input,
    toNat_gammaPixel_mono c input⟩, ?sameValue⟩
  case sameValue =>
    intro s s' i i' hgamma hgamma' hcoef hbright hdraw hne hi hi'
    rw [correctPixel_read_self hi, correctPixel_read_self hi', pixel_of_gammaEn _ hne hgamma,
      pixel_of_gammaEn _ (hdraw ▸ hne) hgamma', hcoef, hbright, hdraw]

/-! ### The reference table's curve (R121, R122) -/

/-- The reference curve in powers of `n`, on a scale of `100000 * 65535 ^ 3`. -/
def referenceCubic (n : Int) : Int := 103 * 65535 ^ 3 - 3506 * 65535 ^ 2 * n + 25152 * 65535 * n ^ 2 + 78304 * n ^ 3

theorem approxCode_referenceCoef (input : Word) :
    approxCode Config.referenceCoef input = (referenceCubic input.toNat : Rat) / (100000 * 65535 ^ 3) := by
  rw [approxCode_eq_polynomial _ _ rfl, referenceCubic]
  simp only [Config.referenceCoef]
  push_cast
  ring

/-- On `0..MAX` the cubic is convex, so it is negative between two points where it is, and positive beyond two points where
it is positive and its tangent leads away. -/
theorem referenceCubic_neg_iff {n : Int} (h : 0 ≤ n) : referenceCubic n < 0 ↔ 3343 ≤ n ∧ n ≤ 3913 := by
  simp only [referenceCubic]
  constructor
  · intro hneg
    by_contra hout
    rcases (by omega : n ≤ 3342 ∨ 3914 ≤ n) with hlow | hhigh
    · nlinarith [sq_nonneg (n - 3342), mul_nonneg h (sq_nonneg (n - 3342))]
    · nlinarith [sq_nonneg (n - 3914), mul_nonneg h (sq_nonneg (n - 3914))]
  · rintro ⟨hlow, hhigh⟩
    have hchord := mul_nonneg (sub_nonneg.2 hlow) (sub_nonneg.2 hhigh)
    nlinarith [mul_nonneg h hchord]

/-- Convex, and below the top at both ends of `0..65522`. -/
theorem referenceCubic_above_iff {n : Int} (h : 0 ≤ n) : 100000 * 65535 ^ 3 < referenceCubic n ↔ 65523 ≤ n := by
  simp only [referenceCubic]
  constructor
  · intro habove
    by_contra hout
    have hchord := mul_nonneg h (by omega : 0 ≤ 65522 - n)
    nlinarith [mul_nonneg h hchord]
  · intro hle
    nlinarith [sq_nonneg (n - 65523), mul_nonneg h (sq_nonneg (n - 65523))]

theorem approxCode_referenceCoef_neg_iff (input : Word) :
    approxCode Config.referenceCoef input < 0 ↔ 3343 ≤ input.toNat ∧ input.toNat ≤ 3913 := by
  have hcubic := referenceCubic_neg_iff (Int.natCast_nonneg input.toNat)
  have hsign : approxCode Config.referenceCoef input < 0 ↔ referenceCubic input.toNat < 0 := by
    rw [approxCode_referenceCoef, div_lt_iff₀ (by norm_num), zero_mul, Int.cast_lt_zero]
  rw [hsign, hcubic]
  omega

theorem one_lt_approxCode_referenceCoef_iff (input : Word) :
    1 < approxCode Config.referenceCoef input ↔ 65523 ≤ input.toNat := by
  have hcubic := referenceCubic_above_iff (Int.natCast_nonneg input.toNat)
  have hscale : 1 < approxCode Config.referenceCoef input ↔ 100000 * 65535 ^ 3 < referenceCubic input.toNat := by
    rw [approxCode_referenceCoef, one_lt_div (by norm_num)]
    exact_mod_cast Iff.rfl
  rw [hscale, hcubic]
  omega

/-- The gamma pixel of the reference table, from the bounds its floor needs. -/
theorem gammaPixel_referenceCoef_eq {input b w : Word}
    (hlow : (w.toNat : Rat) ≤ min (max ((referenceCubic input.toNat : Rat) / (100000 * 65535 ^ 3)) 0) 1 * b.toNat)
    (hhigh : min (max ((referenceCubic input.toNat : Rat) / (100000 * 65535 ^ 3)) 0) 1 * b.toNat < (w.toNat : Rat) + 1) :
    gammaPixel Config.referenceCoef input b = w := by
  rw [gammaPixel_eq_iff, gammaOf, clampUnit_eq_min_max, approxCode_referenceCoef]
  exact ⟨hlow, hhigh⟩

/-- Settles O29: the curve is a cubic in the input code, whose sign changes and outputs are read off. -/
theorem referenceTableRanges : Obligations.ReferenceTableRanges := by
  refine ⟨?zero, ?top, approxCode_referenceCoef_neg_iff, one_lt_approxCode_referenceCoef_iff, ?_, ?_, ?_, ?_⟩
  case zero | top => rw [approxCode_referenceCoef]; norm_num [referenceCubic]
  all_goals apply gammaPixel_referenceCoef_eq <;> norm_num [referenceCubic]

end Sys2Proof.Machine
end

section
/-! SUPPORT. The visiting order (R134, R138): the choices arrange the elements, and reach every arrangement. -/

namespace Sys2Proof.Machine

/-- Each choice inserts one element into an arrangement of the rest. -/
theorem arrange_perm {α : Type} (cs : List Nat) (xs : List α) : (arrange cs xs).Perm xs := by
  induction xs generalizing cs with
  | nil => exact .refl _
  | cons x rest ih =>
    have hle : cs.headD 0 % ((arrange cs.tail rest).length + 1) ≤ (arrange cs.tail rest).length :=
      Nat.le_of_lt_succ (Nat.mod_lt _ (Nat.succ_pos _))
    exact (List.perm_insertIdx x _ hle).trans ((ih cs.tail).cons x)

theorem insertIdx_length_append {α : Type} (pre post : List α) (x : α) :
    (pre ++ post).insertIdx pre.length x = pre ++ x :: post := by
  induction pre with
  | nil => rfl
  | cons y pre ih => rw [List.cons_append, List.length_cons, List.insertIdx_succ_cons, ih]; rfl

/-- The choice that puts `x` where `ys` has it, then the choices for the rest. -/
theorem exists_arrange_eq {α : Type} {xs ys : List α} (h : ys.Perm xs) : ∃ cs, arrange cs xs = ys := by
  induction xs generalizing ys with
  | nil => exact ⟨[], h.eq_nil.symm⟩
  | cons x rest ih =>
    obtain ⟨pre, post, rfl⟩ := List.append_of_mem (h.mem_iff.2 List.mem_cons_self)
    obtain ⟨cs, hcs⟩ := ih (List.perm_middle.symm.trans h).cons_inv
    have hchoice : pre.length % ((pre ++ post).length + 1) = pre.length :=
      Nat.mod_eq_of_lt (by rw [List.length_append]; omega)
    refine ⟨pre.length :: cs, ?_⟩
    simp only [arrange, List.tail_cons, List.headD_cons, hcs, hchoice]
    exact insertIdx_length_append pre post x

/-- Settles O19. -/
theorem everyVisitingOrderReachable : Obligations.EveryVisitingOrderReachable :=
  fun _ xs => ⟨fun cs => arrange_perm cs xs, fun _ h => exists_arrange_eq h⟩

/-- Every set of elements can be visited first. -/
theorem exists_arrange_eq_append {α : Type} [DecidableEq α] {xs done : List α} (hxs : xs.Nodup) (hdone : done.Nodup)
    (hsub : ∀ x ∈ done, x ∈ xs) : ∃ cs rest, arrange cs xs = done ++ rest := by
  have hnodup : (done ++ xs.filter (· ∉ done)).Nodup :=
    List.nodup_append.2 ⟨hdone, hxs.filter _, fun a ha b hb hab => by
      simp only [List.mem_filter, decide_eq_true_eq] at hb
      exact hb.2 (hab ▸ ha)⟩
  have hperm : (done ++ xs.filter (· ∉ done)).Perm xs := (List.perm_ext_iff_of_nodup hnodup hxs).2 fun a => by
    simp only [List.mem_append, List.mem_filter, decide_eq_true_eq]
    by_cases ha : a ∈ done <;> simp [ha, hsub a]
  obtain ⟨cs, hcs⟩ := exists_arrange_eq hperm
  exact ⟨cs, _, hcs⟩

end Sys2Proof.Machine
end

section
/-! SUPPORT. The tick schedule over stretches of micro-steps (R57, R184), and what TICKs outside a serial window do to a state
whose buffers are in canonical form: one frame each, of the buffer they find. -/

namespace Sys2Proof.Machine

/-! ### Stretches of the schedule -/

@[simp] theorem ticksWithin_zero (ts : List Nat) : ticksWithin 0 ts = 0 := by cases ts <;> simp [ticksWithin]

@[simp] theorem ticksAfter_zero (ts : List Nat) : ticksAfter 0 ts = ts := by cases ts <;> simp [ticksAfter]

theorem ticksAfter_add (a b : Nat) (ts : List Nat) : ticksAfter (a + b) ts = ticksAfter b (ticksAfter a ts) := by
  induction ts generalizing a with
  | nil => rfl
  | cons k rest ih =>
    by_cases hk : k < a
    · rw [ticksAfter, if_pos (by omega), ticksAfter, if_pos hk, ← ih, Nat.sub_add_comm hk.le]
    · rw [ticksAfter.eq_2 a, if_neg hk, ticksAfter, ticksAfter]
      have hiff : k < a + b ↔ k - a < b := by omega
      have hleft : a + b - k = b - (k - a) := by omega
      have hright : k - (a + b) = k - a - b := by omega
      simp only [hiff, hleft, hright]

theorem ticksWithin_add (a b : Nat) (ts : List Nat) :
    ticksWithin (a + b) ts = ticksWithin a ts + ticksWithin b (ticksAfter a ts) := by
  induction ts generalizing a with
  | nil => rfl
  | cons k rest ih =>
    by_cases hk : k < a
    · rw [ticksWithin, if_pos (by omega), ticksWithin, if_pos hk, ticksAfter, if_pos hk, Nat.sub_add_comm hk.le, ih]
      omega
    · rw [ticksWithin.eq_2 a, if_neg hk, ticksAfter, if_neg hk, ticksWithin, ticksWithin]
      have hiff : k < a + b ↔ k - a < b := by omega
      have hleft : a + b - k = b - (k - a) := by omega
      simp only [hiff, hleft, Nat.zero_add]

/-- Over a stretch free of TICKs the schedule only counts on. -/
theorem ticks_of_quiet {s : State} {m : Nat} (h : s.quiet m = true) :
    ticksWithin m s.ticks = 0 ∧ ticksAfter m s.ticks = elapse m s.ticks := by
  unfold State.quiet at h
  cases hs : s.ticks with
  | nil => simp [ticksWithin, ticksAfter, elapse]
  | cons k rest =>
    rw [hs] at h
    have hk : ¬ k < m := Nat.not_lt.2 (of_decide_eq_true h)
    simp [ticksWithin, ticksAfter, elapse, hk]

theorem elapse_one_dropWhile (ts : List Nat) : elapse 1 (ts.dropWhile (fun k => k == 0)) = ticksAfter 1 ts := by
  induction ts with
  | nil => rfl
  | cons k rest ih =>
    cases k with
    | zero => simpa [ticksAfter] using ih
    | succ k => simp [ticksAfter, elapse]

/-- The TICKs a stretch meets, each sending what the buffer holds before the micro-step it precedes: `ms` lists the contents
of the buffer before the micro-steps. -/
def framesSent (ms : List Memory) (ts : List Nat) : List Memory :=
  match ms with
  | [] => []
  | m :: rest => List.replicate (ticksWithin 1 ts) m ++ framesSent rest (ticksAfter 1 ts)

theorem framesSent_append (ms ms' : List Memory) (ts : List Nat) :
    framesSent (ms ++ ms') ts = framesSent ms ts ++ framesSent ms' (ticksAfter ms.length ts) := by
  induction ms generalizing ts with
  | nil => simp [framesSent]
  | cons m rest ih =>
    rw [List.cons_append, framesSent, framesSent, ih, ← ticksAfter_add, List.append_assoc, List.length_cons, Nat.add_comm 1]

theorem framesSent_length (ms : List Memory) (ts : List Nat) : (framesSent ms ts).length = ticksWithin ms.length ts := by
  induction ms generalizing ts with
  | nil => simp [framesSent]
  | cons m rest ih =>
    rw [framesSent, List.length_append, List.length_replicate, ih, List.length_cons, Nat.add_comm rest.length,
      ticksWithin_add]

theorem mem_of_mem_framesSent {ms : List Memory} {ts : List Nat} {m : Memory} (h : m ∈ framesSent ms ts) : m ∈ ms := by
  induction ms generalizing ts with
  | nil => simp [framesSent] at h
  | cons m' rest ih =>
    rcases List.mem_append.1 h with h | h
    · exact (List.eq_of_mem_replicate h) ▸ List.mem_cons_self
    · exact List.mem_cons_of_mem _ (ih h)

theorem framesSent_nil (ms : List Memory) : framesSent ms [] = [] := by
  induction ms with
  | nil => rfl
  | cons m rest ih => simp [framesSent, ticksWithin, ticksAfter, ih]

/-- One TICK sends one frame, of the buffer as it is before that micro-step. -/
theorem framesSent_singleton {ms : List Memory} {j : Nat} (h : j < ms.length) : framesSent ms [j] = [ms[j]] := by
  induction ms generalizing j with
  | nil => cases h
  | cons m rest ih =>
    cases j with
    | zero => simp [framesSent, ticksWithin, ticksAfter, framesSent_nil]
    | succ j => simpa [framesSent, ticksWithin, ticksAfter] using ih (Nat.lt_of_succ_lt_succ h)

/-! ### Frames sent by TICKs (R183) -/

/-- `s` after a TICK that found `m` in the transmit buffer. -/
def State.sendFrame (s : State) (m : Memory) : State :=
  { s with
    wire := s.wire ++ frameEvents s.par m
    clk := false
    dat := false
    lat := false
    seq := .idle
    ready := false
    frame := s.frame + 1 }

/-- `s` after TICKs that found these contents in the transmit buffer. -/
def State.sendFrames (s : State) (ms : List Memory) : State := ms.foldl State.sendFrame s

theorem tick_of_free {s : State} (hfree : s.hostop ≠ .serial) (htx : s.tx.length = s.par.n) :
    tick s = .next (s.sendFrame s.tx) := by
  refine tick_eq_next.2 ⟨hfree, ?_⟩
  rw [transmit_of_tx_length htx]
  rfl

theorem State.sendFrames_append (s : State) (ms ms' : List Memory) :
    s.sendFrames (ms ++ ms') = (s.sendFrames ms).sendFrames ms' :=
  List.foldl_append

/-- Everything the frames do: they are on the wire one after the other, the serial lines end low, `READY` is cleared, each
is counted. -/
theorem State.sendFrames_eq (s : State) (ms : List Memory) :
    s.sendFrames ms =
      { s with
        wire := s.wire ++ ms.flatMap (frameEvents s.par)
        clk := if ms = [] then s.clk else false
        dat := if ms = [] then s.dat else false
        lat := if ms = [] then s.lat else false
        seq := if ms = [] then s.seq else .idle
        ready := if ms = [] then s.ready else false
        frame := s.frame + BitVec.ofNat 32 ms.length } := by
  induction ms generalizing s with
  | nil => simp [sendFrames]
  | cons m rest ih =>
    have hcount : s.frame + 1 + BitVec.ofNat 32 rest.length = s.frame + BitVec.ofNat 32 (rest.length + 1) := by
      rw [BitVec.ofNat_add, BitVec.add_assoc, BitVec.add_comm 1]
      rfl
    rw [sendFrames, List.foldl_cons, ← sendFrames, ih]
    simp only [sendFrame]
    simp [← hcount]

section
variable (s : State) (ms : List Memory)

@[simp] theorem State.sendFrames_par : (s.sendFrames ms).par = s.par := by rw [sendFrames_eq]
@[simp] theorem State.sendFrames_draw : (s.sendFrames ms).draw = s.draw := by rw [sendFrames_eq]
@[simp] theorem State.sendFrames_tx : (s.sendFrames ms).tx = s.tx := by rw [sendFrames_eq]
@[simp] theorem State.sendFrames_cfg : (s.sendFrames ms).cfg = s.cfg := by rw [sendFrames_eq]
@[simp] theorem State.sendFrames_bright : (s.sendFrames ms).bright = s.bright := by rw [sendFrames_eq]
@[simp] theorem State.sendFrames_gck : (s.sendFrames ms).gck = s.gck := by rw [sendFrames_eq]
@[simp] theorem State.sendFrames_fault : (s.sendFrames ms).fault = s.fault := by rw [sendFrames_eq]
@[simp] theorem State.sendFrames_hostop : (s.sendFrames ms).hostop = s.hostop := by rw [sendFrames_eq]
@[simp] theorem State.sendFrames_resp : (s.sendFrames ms).resp = s.resp := by rw [sendFrames_eq]
@[simp] theorem State.sendFrames_cmds : (s.sendFrames ms).cmds = s.cmds := by rw [sendFrames_eq]
@[simp] theorem State.sendFrames_ticks : (s.sendFrames ms).ticks = s.ticks := by rw [sendFrames_eq]
@[simp] theorem State.sendFrames_order : (s.sendFrames ms).order = s.order := by rw [sendFrames_eq]
@[simp] theorem State.sendFrames_wire : (s.sendFrames ms).wire = s.wire ++ ms.flatMap (frameEvents s.par) := by
  rw [sendFrames_eq]
@[simp] theorem State.sendFrames_ready : (s.sendFrames ms).ready = if ms = [] then s.ready else false := by
  rw [sendFrames_eq]
@[simp] theorem State.sendFrames_frame : (s.sendFrames ms).frame = s.frame + BitVec.ofNat 32 ms.length := by
  rw [sendFrames_eq]

end

theorem State.sendFrames_setTicks (s : State) (ms : List Memory) (ts : List Nat) :
    (s.setTicks ts).sendFrames ms = (s.sendFrames ms).setTicks ts := by
  simp [sendFrames_eq, setTicks]

theorem State.sendFrames_setHostOp (s : State) (ms : List Memory) (h : HostOp) :
    (s.setHostOp h).sendFrames ms = (s.sendFrames ms).setHostOp h := by
  simp [sendFrames_eq, setHostOp]

/-! ### Serving the schedule outside a serial window -/

/-- The due TICKs send the buffer as often as there are of them, and are off the schedule. -/
theorem serveTicks_of_free {s : State} (hfree : s.hostop ≠ .serial) (htx : s.tx.length = s.par.n) (ts : List Nat) :
    serveTicks ts (s.setTicks ts) =
      .next ((s.sendFrames (List.replicate (ticksWithin 1 ts) s.tx)).setTicks (ts.dropWhile (fun k => k == 0))) := by
  induction ts generalizing s with
  | nil => rfl
  | cons k rest ih =>
    cases k with
    | zero =>
      have htick : tick ((s.setTicks (0 :: rest)).setTicks rest) = .next ((s.sendFrame s.tx).setTicks rest) :=
        tick_of_free (s := s.setTicks rest) hfree htx
      rw [serveTicks, htick, andThen_next, ih (s := s.sendFrame s.tx) hfree htx]
      simp [ticksWithin, List.replicate_succ, State.sendFrames, State.sendFrame]
    | succ k => simp [serveTicks, ticksWithin, State.sendFrames]

/-- A micro-step outside a serial window: the due TICKs' frames, then the micro-step. -/
theorem micro_of_free {f : State → State} (hticks : ∀ s ts, f (s.setTicks ts) = (f s).setTicks ts) {s : State}
    (hfree : s.hostop ≠ .serial) (htx : s.tx.length = s.par.n) :
    micro f s =
      .next ((f (s.sendFrames (List.replicate (ticksWithin 1 s.ticks) s.tx))).setTicks (ticksAfter 1 s.ticks)) := by
  have hserve := serveTicks_of_free hfree htx s.ticks
  have hself : s.setTicks s.ticks = s := rfl
  rw [hself] at hserve
  rw [micro, hserve, andThen_next, hticks, ← elapse_one_dropWhile]
  rfl

/-! ### Loops of micro-steps on the buffers -/

/-- A micro-step on the buffers: it does not touch what a TICK writes, nor the schedule, nor `HOSTOP`. -/
structure BufferStep (f : State → State) : Prop where
  frame : ∀ s m, f (s.sendFrame m) = (f s).sendFrame m
  ticks : ∀ s ts, f (s.setTicks ts) = (f s).setTicks ts
  hostOp : ∀ s h, f (s.setHostOp h) = (f s).setHostOp h
  par : ∀ s, (f s).par = s.par
  txLength : ∀ s, (f s).tx.length = s.tx.length

theorem BufferStep.frames {f : State → State} (hf : BufferStep f) (s : State) (ms : List Memory) :
    f (s.sendFrames ms) = (f s).sendFrames ms := by
  induction ms generalizing s with
  | nil => rfl
  | cons m rest ih => rw [State.sendFrames, List.foldl_cons, ← State.sendFrames, ih, hf.frame]; rfl

variable {α : Type}

/-- Micro-steps in a row, one for each element; `HOSTOP` holds what is left. -/
def hostLoop (act : α → State → State) (op : List α → HostOp) (todo : List α) (s : State) : Result :=
  match todo with
  | [] => .next s
  | x :: rest => andThen (micro (fun t => (act x t).setHostOp (op rest)) s) (hostLoop act op rest)

theorem clearLoop_eq_hostLoop (todo : List (Buffer × Nat)) (s : State) :
    clearLoop todo s = hostLoop clearElement .clear todo s := by
  induction todo generalizing s with
  | nil => rfl
  | cons x rest ih => rw [clearLoop, hostLoop, funext ih]

theorem correctLoop_eq_hostLoop (after : AfterPass) (todo : List Nat) (s : State) :
    correctLoop after todo s = hostLoop correctPixel (fun left => .correct left after) todo s := by
  induction todo generalizing s with
  | nil => rfl
  | cons x rest ih => rw [correctLoop, hostLoop, funext ih]

/-- The elements' updates one after the other. -/
def actAll (act : α → State → State) (todo : List α) (s : State) : State := todo.foldl (fun t x => act x t) s

/-- The transmit buffer before each of the updates. -/
def snapshots (act : α → State → State) (todo : List α) (s : State) : List Memory :=
  (List.range todo.length).map (fun j => (actAll act (todo.take j) s).tx)

theorem snapshots_length (act : α → State → State) (todo : List α) (s : State) :
    (snapshots act todo s).length = todo.length := by simp [snapshots]

theorem snapshots_cons (act : α → State → State) (x : α) (rest : List α) (s : State) :
    snapshots act (x :: rest) s = s.tx :: snapshots act rest (act x s) := by
  simp [snapshots, List.range_succ_eq_map, actAll, Function.comp_def]

theorem actAll_bufferStep {act : α → State → State} (hact : ∀ x, BufferStep (act x)) (todo : List α) :
    BufferStep (actAll act todo) := by
  induction todo with
  | nil => exact ⟨fun _ _ => rfl, fun _ _ => rfl, fun _ _ => rfl, fun _ => rfl, fun _ => rfl⟩
  | cons x rest ih => exact
    { frame := fun s m => by rw [actAll, List.foldl_cons, ← actAll, (hact x).frame, ih.frame]; rfl
      ticks := fun s ts => by rw [actAll, List.foldl_cons, ← actAll, (hact x).ticks, ih.ticks]; rfl
      hostOp := fun s h => by rw [actAll, List.foldl_cons, ← actAll, (hact x).hostOp, ih.hostOp]; rfl
      par := fun s => by rw [actAll, List.foldl_cons, ← actAll, ih.par, (hact x).par]
      txLength := fun s => by rw [actAll, List.foldl_cons, ← actAll, ih.txLength, (hact x).txLength] }

/-- TICKs before a loop change nothing of the contents its updates go through. -/
theorem snapshots_sendFrames {act : α → State → State} (hact : ∀ x, BufferStep (act x)) (todo : List α) (s : State)
    (ms : List Memory) (ts : List Nat) :
    snapshots act todo ((s.sendFrames ms).setTicks ts) = snapshots act todo s := by
  simp [snapshots, (actAll_bufferStep hact _).ticks, (actAll_bufferStep hact _).frames]

/-- A loop on the buffers under any schedule: the updates, and for each TICK a frame of the buffer it found. -/
theorem hostLoop_of_bufferStep {act : α → State → State} (hact : ∀ x, BufferStep (act x)) {op : List α → HostOp}
    (hop : ∀ left, op left ≠ .serial) (todo : List α) (s : State) (htx : s.tx.length = s.par.n) :
    hostLoop act op todo (s.setHostOp (op todo)) =
      .next ((((actAll act todo s).sendFrames (framesSent (snapshots act todo s) s.ticks)).setTicks
        (ticksAfter todo.length s.ticks)).setHostOp (op [])) := by
  induction todo generalizing s with
  | nil => simp [hostLoop, snapshots, framesSent, actAll, State.sendFrames, State.setTicks]
  | cons x rest ih =>
    have hstep := micro_of_free (f := fun t => (act x t).setHostOp (op rest)) (s := s.setHostOp (op (x :: rest)))
      (fun t ts => by rw [(hact x).ticks]; rfl) (hop _) htx
    have hnext := ih (((act x s).sendFrames (List.replicate (ticksWithin 1 s.ticks) s.tx)).setTicks (ticksAfter 1 s.ticks))
      (by simpa [(hact x).par, (hact x).txLength] using htx)
    have hmid : ((act x ((s.setHostOp (op (x :: rest))).sendFrames
        (List.replicate (ticksWithin 1 s.ticks) s.tx))).setHostOp (op rest)).setTicks (ticksAfter 1 s.ticks) =
        (((act x s).sendFrames (List.replicate (ticksWithin 1 s.ticks) s.tx)).setTicks
          (ticksAfter 1 s.ticks)).setHostOp (op rest) := by
      rw [State.sendFrames_setHostOp, (hact x).hostOp, (hact x).frames]
      rfl
    rw [hostLoop, hstep]
    simp only [State.setHostOp_ticks, State.setHostOp_tx]
    rw [andThen_next, hmid, hnext, snapshots_sendFrames hact, snapshots_cons, framesSent, State.sendFrames_append,
      (actAll_bufferStep hact rest).ticks, (actAll_bufferStep hact rest).frames, State.sendFrames_setTicks,
      State.setTicks_ticks, ← ticksAfter_add, List.length_cons, Nat.add_comm 1]
    rfl

/-- A loop on the buffers and one more micro-step, which may write what a TICK writes. -/
theorem hostLoop_then_micro {act : α → State → State} (hact : ∀ x, BufferStep (act x)) {op : List α → HostOp}
    (hop : ∀ left, op left ≠ .serial) {f : State → State} (hf : ∀ s ts, f (s.setTicks ts) = (f s).setTicks ts)
    (todo : List α) (s : State) (htx : s.tx.length = s.par.n) :
    andThen (hostLoop act op todo (s.setHostOp (op todo))) (micro f) =
      .next ((f (((actAll act todo s).setHostOp (op [])).sendFrames
        (framesSent (snapshots act todo s ++ [(actAll act todo s).tx]) s.ticks))).setTicks
          (ticksAfter (todo.length + 1) s.ticks)) := by
  have hall := actAll_bufferStep hact todo
  rw [hostLoop_of_bufferStep hact hop todo s htx, andThen_next, micro_of_free hf (by simpa using hop [])
    (by simpa [hall.par, hall.txLength] using htx)]
  have hframes : framesSent (snapshots act todo s ++ [(actAll act todo s).tx]) s.ticks =
      framesSent (snapshots act todo s) s.ticks ++
        List.replicate (ticksWithin 1 (ticksAfter todo.length s.ticks)) (actAll act todo s).tx := by
    rw [framesSent_append, snapshots_length, framesSent, framesSent, List.append_nil]
  rw [hframes, State.sendFrames_append, State.sendFrames_setHostOp, State.sendFrames_setHostOp, State.sendFrames_setHostOp,
    State.sendFrames_setTicks, ticksAfter_add, ← hf]
  simp only [State.setHostOp_ticks, State.setTicks_ticks, State.setHostOp_tx, State.setTicks_tx, State.sendFrames_tx]
  rw [← hf]
  rfl

end Sys2Proof.Machine
end

section
/-! SUPPORT. CLEAR and CORRECT (R134, R137 to R140) under any schedule and any visiting order: one equation for each, from
which the result, the frame of what is unchanged and the torn frames (R220) follow. -/

namespace Sys2Proof.Machine

/-! ### A buffer some of whose elements have been written -/

/-- `m` with the new value at the elements of `done`. -/
def Memory.patch (m : Memory) (done : List Nat) (new : Nat → Word) : Memory :=
  (List.range m.length).map (fun i => if i ∈ done then new i else m.read i)

@[simp] theorem Memory.patch_length (m : Memory) (done : List Nat) (new : Nat → Word) :
    (m.patch done new).length = m.length := by simp [patch]

theorem Memory.patch_read {m : Memory} {i : Nat} (h : i < m.length) (done : List Nat) (new : Nat → Word) :
    (m.patch done new).read i = if i ∈ done then new i else m.read i :=
  read_map_range _ h

theorem Memory.patch_nil (m : Memory) (new : Nat → Word) : m.patch [] new = m := by
  simpa [patch] using Memory.map_read_range (m := m) rfl

theorem Memory.ext_read {m m' : Memory} (hlen : m.length = m'.length) (h : ∀ i < m.length, m.read i = m'.read i) :
    m = m' :=
  List.ext_getElem hlen fun i hi hi' => by
    rw [← Memory.read_eq_getElem hi, ← Memory.read_eq_getElem hi', h i hi]

/-- One more element written. -/
theorem Memory.patch_write (m : Memory) (done : List Nat) (new : Nat → Word) (i : Nat) :
    (m.patch done new).write i (new i) = m.patch (done ++ [i]) new := by
  refine Memory.ext_read (by simp) fun j hj => ?_
  have hj' : j < m.length := by simpa using hj
  rw [Memory.patch_read hj']
  by_cases hij : i = j
  · subst hij
    rw [Memory.read_write_self (by simpa using hj')]
    simp
  · rw [Memory.read_write_of_ne hij, Memory.patch_read hj']
    simp [Ne.symm hij]

/-- Every element written. -/
theorem Memory.patch_full {m : Memory} {done : List Nat} (h : ∀ i < m.length, i ∈ done) (new : Nat → Word) :
    m.patch done new = (List.range m.length).map new :=
  List.map_congr_left fun i hi => if_pos (h i (List.mem_range.1 hi))

theorem State.buffersOk_lengths {s : State} (h : s.buffersOk = true) :
    s.draw.length = s.par.n ∧ s.tx.length = s.par.n := by
  obtain ⟨hdraw, htx⟩ := Bool.and_eq_true_iff.1 h
  exact ⟨Memory.wf_length hdraw, Memory.wf_length htx⟩

/-! ### The updates of a correction pass (R137) -/

/-- What `CORRECT_PIXEL(i)` writes. -/
def State.pixelAt (s : State) (i : Nat) : Word := pixel s.par (s.draw.read i) s.bright

theorem correctPixel_bufferStep (i : Nat) : BufferStep (correctPixel i) :=
  ⟨fun _ _ => rfl, fun _ _ => rfl, fun _ _ => rfl, fun _ => rfl, fun _ => Memory.write_length ..⟩

theorem actAll_correctPixel (done : List Nat) (s : State) :
    actAll correctPixel done s = s.setTx (s.tx.patch done s.pixelAt) := by
  induction done using List.reverseRecOn with
  | nil => rw [Memory.patch_nil]; rfl
  | append_singleton done i ih =>
    rw [actAll, List.foldl_append, ← actAll.eq_1 correctPixel done, ih, ← Memory.patch_write]
    rfl

theorem corrected_eq_map_range {s : State} (h : s.draw.length = s.par.n) :
    corrected s = (List.range s.par.n).map s.pixelAt := by
  rw [corrected]
  conv_lhs => rw [← Memory.map_read_range h, List.map_map]
  rfl

theorem corrected_read {s : State} (h : s.draw.length = s.par.n) {i : Nat} (hi : i < s.par.n) :
    (corrected s).read i = s.pixelAt i := by
  rw [corrected_eq_map_range h, read_map_range _ hi]

/-- `TX` before each of the first `steps` micro-steps of a correction pass. -/
def passSnapshots (s : State) (steps : Nat) : List Memory :=
  (List.range steps).map fun j => s.tx.patch ((arrange s.order (List.range s.par.n)).take j) s.pixelAt

/-- The frames that TICKs inside a correction pass send. -/
def passFrames (s : State) : List Memory := framesSent (passSnapshots s (s.par.n + 1)) s.ticks

theorem arrange_range_length (s : State) : (arrange s.order (List.range s.par.n)).length = s.par.n := by
  rw [arrange_length, List.length_range]

theorem patch_arrange_range {s : State} (h : s.buffersOk = true) :
    s.tx.patch (arrange s.order (List.range s.par.n)) s.pixelAt = corrected s := by
  obtain ⟨hdraw, htx⟩ := State.buffersOk_lengths h
  rw [Memory.patch_full, htx, corrected_eq_map_range hdraw]
  intro i hi
  exact (arrange_perm s.order _).mem_iff.2 (List.mem_range.2 (htx ▸ hi))

theorem passSnapshots_succ {s : State} (h : s.buffersOk = true) :
    passSnapshots s (s.par.n + 1) = passSnapshots s s.par.n ++ [corrected s] := by
  have htake : (arrange s.order (List.range s.par.n)).take s.par.n = arrange s.order (List.range s.par.n) :=
    List.take_of_length_le (arrange_range_length s).le
  rw [passSnapshots, List.range_succ, List.map_append, List.map_singleton, htake, patch_arrange_range h, passSnapshots]

/-- The whole of a correction pass under any schedule and any visiting order. -/
theorem correctionPass_eq {s : State} (hbuf : s.buffersOk = true) (after : AfterPass) (h : HostOp) :
    correctionPass after h s =
      .next ((((((s.setOrder (s.order.drop s.par.n)).setTx (corrected s)).sendFrames (passFrames s)).setReady true).setHostOp
        h).setTicks (ticksAfter (s.par.n + 1) s.ticks)) := by
  obtain ⟨-, htx⟩ := State.buffersOk_lengths hbuf
  have hloop := hostLoop_then_micro correctPixel_bufferStep (op := fun left => .correct left after) (fun _ => by simp)
    (f := fun t => (t.setReady true).setHostOp h) (fun _ _ => rfl)
    (arrange s.order (List.range s.par.n)) (s.setOrder (s.order.drop s.par.n)) htx
  have hall : actAll correctPixel (arrange s.order (List.range s.par.n)) (s.setOrder (s.order.drop s.par.n)) =
      (s.setOrder (s.order.drop s.par.n)).setTx (corrected s) := by
    rw [← patch_arrange_range hbuf]
    exact actAll_correctPixel _ _
  have hsnap : snapshots correctPixel (arrange s.order (List.range s.par.n)) (s.setOrder (s.order.drop s.par.n)) =
      passSnapshots s s.par.n := by
    simp only [snapshots, arrange_range_length, actAll_correctPixel, passSnapshots]
    rfl
  rw [hall, hsnap, State.setTx_tx, ← passSnapshots_succ hbuf, arrange_range_length, State.sendFrames_setHostOp] at hloop
  simp only [correctionPass, correctLoop_eq_hostLoop, arrange_range_length]
  exact hloop

theorem passFrames_length (s : State) : (passFrames s).length = ticksWithin (s.par.n + 1) s.ticks := by
  rw [passFrames, framesSent_length, passSnapshots, List.length_map, List.length_range]

/-- A frame of old and new elements of the transmit buffer (R220). -/
def IsTorn (s : State) (new : Nat → Word) (m : Memory) : Prop :=
  m.length = s.par.n ∧ ∀ i < s.par.n, m.read i = s.tx.read i ∨ m.read i = new i

theorem isTorn_patch {s : State} (htx : s.tx.length = s.par.n) (done : List Nat) (new : Nat → Word) :
    IsTorn s new (s.tx.patch done new) := by
  refine ⟨by rw [Memory.patch_length, htx], fun i hi => ?_⟩
  rw [Memory.patch_read (htx.symm ▸ hi)]
  split
  · exact .inr rfl
  · exact .inl rfl

theorem isTorn_of_mem_passFrames {s : State} (htx : s.tx.length = s.par.n) {m : Memory} (h : m ∈ passFrames s) :
    IsTorn s s.pixelAt m := by
  obtain ⟨j, -, rfl⟩ := List.mem_map.1 (mem_of_mem_framesSent h)
  exact isTorn_patch htx _ _

/-- One TICK in a correction pass finds the pixels visited before it. -/
theorem passFrames_singleton {s : State} {j : Nat} (hj : j ≤ s.par.n) (hticks : s.ticks = [j]) :
    passFrames s = [s.tx.patch ((arrange s.order (List.range s.par.n)).take j) s.pixelAt] := by
  rw [passFrames, hticks, framesSent_singleton (by simp [passSnapshots]; omega)]
  simp [passSnapshots]

theorem passFrames_of_quiet {s : State} (h : s.quiet (s.par.n + 1) = true) : passFrames s = [] := by
  rw [← List.length_eq_zero_iff, passFrames_length, (ticks_of_quiet h).1]

/-! ### CORRECT -/

theorem exec_correct_eq {s : State} (hbuf : s.buffersOk = true) :
    exec .correct s =
      .next ((((((s.setOrder (s.order.drop s.par.n)).setTx (corrected s)).sendFrames (passFrames s)).setReady true).setHostOp
        .none).setTicks (ticksAfter (s.par.n + 1) s.ticks)) :=
  correctionPass_eq hbuf .stop .none

/-- Settles O15: no TICK, no frame. -/
theorem correctPassResult : Obligations.CorrectPassResult := by
  intro s hbuf hquiet
  rw [exec_correct_eq hbuf, passFrames_of_quiet hquiet, (ticks_of_quiet hquiet).2]
  rfl

/-- Settles O16: the frames change what a TICK writes and nothing else. -/
theorem correctUnderAnyTicks : Obligations.CorrectUnderAnyTicks := by
  intro s hbuf
  refine ⟨_, exec_correct_eq hbuf, ?_⟩
  simp [corrected, passFrames_length]

/-- Settles O20: every element is a pixel value (O16), and a pixel value has the bounds. -/
theorem correctOutputBounds : Obligations.CorrectOutputBounds := by
  intro s hbuf
  obtain ⟨hdraw, -⟩ := State.buffersOk_lengths hbuf
  obtain ⟨t, hexec, htx, -⟩ := correctUnderAnyTicks s hbuf
  have hpixel : t.tx = corrected s := htx
  refine ⟨t, hexec, by rw [htx, List.length_map, hdraw], fun i hi => ?_⟩
  rw [hpixel, corrected_read hdraw hi, State.pixelAt]
  refine ⟨word_toNat_le_max _, fun hzero => by rw [hzero, pixel_input_zero], fun hgamma => ?_, fun hbright => by
    rw [hbright, pixel_bright_zero]⟩
  by_cases hin : s.draw.read i = 0#16
  · rw [hin, pixel_input_zero]
    exact Nat.zero_le _
  · rw [pixel_of_gammaEn _ hin hgamma]
    exact toNat_gammaPixel_le ..

/-! ### CLEAR (R134) -/

/-- The indices of the buffer `b` among CLEAR's elements. -/
def targetsOf (b : Buffer) (done : List (Buffer × Nat)) : List Nat := (done.filter (fun x => x.1 = b)).map Prod.snd

theorem mem_targetsOf {b : Buffer} {done : List (Buffer × Nat)} {i : Nat} : i ∈ targetsOf b done ↔ (b, i) ∈ done := by
  simp only [targetsOf, List.mem_map, List.mem_filter, decide_eq_true_eq]
  constructor
  · rintro ⟨⟨b', i'⟩, ⟨hmem, rfl⟩, rfl⟩
    exact hmem
  · exact fun h => ⟨(b, i), ⟨h, rfl⟩, rfl⟩

theorem targetsOf_append (b : Buffer) (done more : List (Buffer × Nat)) :
    targetsOf b (done ++ more) = targetsOf b done ++ targetsOf b more := by
  simp [targetsOf]

theorem clearElement_bufferStep (x : Buffer × Nat) : BufferStep (clearElement x) := by
  obtain ⟨b, i⟩ := x
  cases b with
  | draw => exact ⟨fun _ _ => rfl, fun _ _ => rfl, fun _ _ => rfl, fun _ => rfl, fun _ => rfl⟩
  | tx => exact ⟨fun _ _ => rfl, fun _ _ => rfl, fun _ _ => rfl, fun _ => rfl, fun _ => Memory.write_length ..⟩

theorem actAll_clearElement (done : List (Buffer × Nat)) (s : State) :
    actAll clearElement done s =
      (s.setDraw (s.draw.patch (targetsOf .draw done) fun _ => 0#16)).setTx
        (s.tx.patch (targetsOf .tx done) fun _ => 0#16) := by
  induction done using List.reverseRecOn with
  | nil => simp [targetsOf, Memory.patch_nil, actAll, State.setDraw, State.setTx]
  | append_singleton done x ih =>
    rw [actAll, List.foldl_append, ← actAll.eq_1 clearElement done, ih]
    obtain ⟨b, i⟩ := x
    cases b with
    | draw =>
      have hdraw : targetsOf .draw (done ++ [(.draw, i)]) = targetsOf .draw done ++ [i] := targetsOf_append ..
      have htx : targetsOf .tx (done ++ [(.draw, i)]) = targetsOf .tx done := by simp [targetsOf]
      rw [hdraw, htx, ← Memory.patch_write]
      rfl
    | tx =>
      have hdraw : targetsOf .draw (done ++ [(.tx, i)]) = targetsOf .draw done := by simp [targetsOf]
      have htx : targetsOf .tx (done ++ [(.tx, i)]) = targetsOf .tx done ++ [i] := targetsOf_append ..
      rw [hdraw, htx, ← Memory.patch_write]
      rfl

theorem mem_clearTargets {n : Nat} {x : Buffer × Nat} : x ∈ clearTargets n ↔ x.2 < n := by
  obtain ⟨b, i⟩ := x
  cases b <;> simp [clearTargets]

theorem clearTargets_nodup (n : Nat) : (clearTargets n).Nodup := by
  have hinj : ∀ b : Buffer, Function.Injective (fun i : Nat => (b, i)) := fun b _ _ h => congrArg Prod.snd h
  refine List.nodup_append.2 ⟨List.nodup_range.map (hinj _), List.nodup_range.map (hinj _), ?_⟩
  intro x hx y hy hxy
  obtain ⟨i, -, rfl⟩ := List.mem_map.1 hx
  obtain ⟨j, -, rfl⟩ := List.mem_map.1 hy
  exact absurd (congrArg Prod.fst hxy) (by simp)

theorem arrange_clearTargets_length (cs : List Nat) (n : Nat) : (arrange cs (clearTargets n)).length = 2 * n := by
  rw [arrange_length, clearTargets, List.length_append, List.length_map, List.length_map, List.length_range, Nat.two_mul]

theorem patch_arrange_clearTargets {m : Memory} {n : Nat} (hm : m.length = n) (b : Buffer) (cs : List Nat) :
    m.patch (targetsOf b (arrange cs (clearTargets n))) (fun _ => 0#16) = List.replicate n 0#16 := by
  rw [Memory.patch_full, hm, List.map_const', List.length_range]
  intro i hi
  exact mem_targetsOf.2 ((arrange_perm cs _).mem_iff.2 (mem_clearTargets.2 (hm ▸ hi)))

/-- The frames that TICKs inside a CLEAR send. -/
def clearFrames (s : State) : List Memory :=
  framesSent ((List.range (2 * s.par.n)).map fun j =>
    s.tx.patch (targetsOf .tx ((arrange s.order (clearTargets s.par.n)).take j)) fun _ => 0#16) s.ticks

/-- The whole of a CLEAR under any schedule and any visiting order. -/
theorem exec_clear_eq {s : State} (hbuf : s.buffersOk = true) :
    exec .clear s =
      .next ((((((s.setOrder (s.order.drop (2 * s.par.n))).setDraw (List.replicate s.par.n 0#16)).setTx
        (List.replicate s.par.n 0#16)).sendFrames (clearFrames s)).setTicks (ticksAfter (2 * s.par.n) s.ticks)).setHostOp
          .none) := by
  obtain ⟨hdraw, htx⟩ := State.buffersOk_lengths hbuf
  have hloop := hostLoop_of_bufferStep clearElement_bufferStep (op := .clear) (fun _ => by simp)
    (arrange s.order (clearTargets s.par.n)) (s.setOrder (s.order.drop (2 * s.par.n))) htx
  have hsnap : framesSent (snapshots clearElement (arrange s.order (clearTargets s.par.n))
      (s.setOrder (s.order.drop (2 * s.par.n)))) s.ticks = clearFrames s := by
    simp only [snapshots, arrange_clearTargets_length, actAll_clearElement, clearFrames]
    rfl
  rw [actAll_clearElement, State.setOrder_ticks, hsnap, arrange_clearTargets_length, State.setOrder_draw,
    State.setOrder_tx, patch_arrange_clearTargets hdraw, patch_arrange_clearTargets htx] at hloop
  simp only [exec, execClear, clearLoop_eq_hostLoop, arrange_clearTargets_length]
  rw [hloop]
  rfl

theorem clearFrames_length (s : State) : (clearFrames s).length = ticksWithin (2 * s.par.n) s.ticks := by
  rw [clearFrames, framesSent_length, List.length_map, List.length_range]

theorem isTorn_of_mem_clearFrames {s : State} (htx : s.tx.length = s.par.n) {m : Memory} (h : m ∈ clearFrames s) :
    IsTorn s (fun _ => 0#16) m := by
  obtain ⟨j, -, rfl⟩ := List.mem_map.1 (mem_of_mem_framesSent h)
  exact isTorn_patch htx _ _

/-- One TICK in a CLEAR finds the elements of `TX` written before it. -/
theorem clearFrames_singleton {s : State} {j : Nat} (hj : j < 2 * s.par.n) (hticks : s.ticks = [j]) :
    clearFrames s =
      [s.tx.patch (targetsOf .tx ((arrange s.order (clearTargets s.par.n)).take j)) fun _ => 0#16] := by
  rw [clearFrames, hticks, framesSent_singleton (by simpa using hj)]
  simp

/-- Settles O13: no TICK, no frame. -/
theorem clearZeroesBothBuffers : Obligations.ClearZeroesBothBuffers := by
  intro s hbuf hquiet
  obtain ⟨hnone, hticks⟩ := ticks_of_quiet hquiet
  have hframes : clearFrames s = [] := by rw [← List.length_eq_zero_iff, clearFrames_length, hnone]
  rw [exec_clear_eq hbuf, hframes, hticks]
  rfl

/-- Settles O14: the frames change what a TICK writes and nothing else. -/
theorem clearUnderAnyTicks : Obligations.ClearUnderAnyTicks := by
  intro s hbuf
  refine ⟨_, exec_clear_eq hbuf, ?_⟩
  simp [← clearFrames_length]

end Sys2Proof.Machine
end

section
/-! SUPPORT. What every outcome of a command or a step is (R9, R180 to R187), said once: the next state is reached by the
updates the command is made of and by TICKs; a fault is a TICK that met such a state in a serial window; nothing is refused. -/

namespace Sys2Proof.Machine

/-! ### The updates a command is made of -/

/-- One update of a command's micro-steps: the write column of R38. The value a micro-step writes is left open where no
statement needs it. -/
inductive Update : Instr → State → State → Prop where
  | drawWr (idx val i v s) : Update (.drawWr idx val) s (s.setDraw (s.draw.write i v))
  | drawWrIndex (idx val s) : Update (.drawWr idx val) s (raise .index s)
  | drawRd (idx v s) : Update (.drawRd idx) s (s.respond v)
  | drawRdIndex (idx s) : Update (.drawRd idx) s (raise .index s)
  | setBright (val s) : Update (.setBright val) s (s.setBright val)
  | clearOrder (cs s) : Update .clear s (s.setOrder cs)
  | clearDraw (i v s) : Update .clear s (s.setDraw (s.draw.write i v))
  | clearTx (i v s) : Update .clear s (s.setTx (s.tx.write i v))
  | correctOrder (cs s) : Update .correct s (s.setOrder cs)
  | correctTx (i v s) : Update .correct s (s.setTx (s.tx.write i v))
  | correctReady (v s) : Update .correct s (s.setReady v)
  | writeFrameOrder (cs s) : Update .writeFrame s (s.setOrder cs)
  | writeFrameTx (i v s) : Update .writeFrame s (s.setTx (s.tx.write i v))
  | writeFrameReady (v s) : Update .writeFrame s (s.setReady v)
  | writeFramePin (e s) (h : e.1.line ≠ .gck) : Update .writeFrame s (sendPin e s)
  | putWordPin (k val e s) (h : e.1.line ≠ .gck) : Update (.putWord k val) s (sendPin e s)
  | writeConfigPin (e s) (h : e.1.line ≠ .gck) : Update .writeConfig s (sendPin e s)
  | startCfg (s) : Update .start s (s.setCfg (cfgEnabled s.par s.cfg))
  | startPin (e s) (h : e.1.line ≠ .gck) : Update .start s (sendPin e s)
  | startGck (v s) : Update .start s (s.drive ⟨.gck, v⟩)
  | stopCfg (s) : Update .stop s (s.setCfg (cfgDisabled s.par s.cfg))
  | stopPin (e s) (h : e.1.line ≠ .gck) : Update .stop s (sendPin e s)
  | stopGck (v s) : Update .stop s (s.drive ⟨.gck, v⟩)

/-- A preorder that TICKs, the counting of micro-steps and `HOSTOP` stay within. -/
structure TickClosed (R : State → State → Prop) : Prop where
  refl : ∀ s, R s s
  trans : ∀ s t u, R s t → R t u → R s u
  tick : ∀ s t rest, s.ticks = 0 :: rest → tick (s.setTicks rest) = .next t → R s t
  countdown : ∀ s, R s s.countdown
  hostOp : ∀ s h, R s (s.setHostOp h)

theorem Closed.tickClosed {R : State → State → Prop} (C : Closed R) : TickClosed R :=
  ⟨C.refl, C.trans, C.tick, C.countdown, C.hostOp⟩

theorem Closed.update {R : State → State → Prop} (C : Closed R) {i : Instr} {s t : State} (h : Update i s t) : R s t := by
  cases h with
  | drawWr | clearDraw => exact C.draw ..
  | drawWrIndex | drawRdIndex => exact C.index _
  | drawRd => exact C.respond ..
  | setBright => exact C.bright ..
  | clearOrder | correctOrder | writeFrameOrder => exact C.order ..
  | clearTx | correctTx | writeFrameTx => exact C.tx ..
  | correctReady | writeFrameReady => exact C.ready ..
  | writeFramePin | putWordPin | writeConfigPin | startPin | stopPin => exact C.pin ..
  | startCfg => exact C.enable _
  | stopCfg => exact C.disable _
  | startGck | stopGck => exact C.drive ..

/-! ### Outcomes within a relation -/

/-- The outcome stays within `R`: a next state is related to `s`; a fault is a TICK due in a related state whose `HOSTOP` is
`serial`; there is no refusal. -/
def Within (R : State → State → Prop) (s : State) (r : Result) : Prop :=
  match r with
  | .next t => R s t
  | .fault (.collision u) =>
    ∃ v rest, R s v ∧ v.hostop = .serial ∧ v.ticks = 0 :: rest ∧ u = raise .collision (v.setTicks rest)
  | .refused _ => False

section
variable {R : State → State → Prop} (T : TickClosed R)
include T

theorem Within.of_related {s t : State} {r : Result} (h : R s t) (hr : Within R t r) : Within R s r := by
  cases r with
  | next u => exact T.trans _ _ _ h hr
  | fault e =>
    obtain ⟨u⟩ := e
    obtain ⟨v, rest, hv, hrest⟩ := hr
    exact ⟨v, rest, T.trans _ _ _ h hv, hrest⟩
  | refused e => exact hr

theorem Within.andThen {s : State} {r : Result} {f : State → Result} (hr : Within R s r) (hf : ∀ t, Within R t (f t)) :
    Within R s (andThen r f) := by
  cases r with
  | next t => exact Within.of_related T hr (hf t)
  | fault e => exact hr
  | refused e => exact hr

theorem tick_within {s : State} {rest : List Nat} (hs : s.ticks = 0 :: rest) : Within R s (tick (s.setTicks rest)) := by
  by_cases hserial : s.hostop = .serial
  · rw [(tick_eq_fault (s := s.setTicks rest)).2 ⟨hserial, rfl⟩]
    exact ⟨s, rest, T.refl s, hserial, hs, rfl⟩
  · have hnext := (tick_eq_next (s := s.setTicks rest)).2 ⟨hserial, rfl⟩
    rw [hnext]
    exact T.tick _ _ _ hs hnext

theorem serveTicks_within (ts : List Nat) {s : State} (hs : s.ticks = ts) : Within R s (serveTicks ts s) := by
  induction ts generalizing s with
  | nil => exact T.refl s
  | cons k rest ih =>
    cases k with
    | succ k => exact T.refl s
    | zero =>
      have hwithin := tick_within T hs
      rw [serveTicks]
      cases htick : tick (s.setTicks rest) with
      | next t => exact Within.of_related T (T.tick _ _ _ hs htick) (ih (tick_ticks htick))
      | fault e => rwa [htick] at hwithin
      | refused e => rwa [htick] at hwithin

theorem micro_within {f : State → State} (hf : ∀ s, R s (f s)) (s : State) : Within R s (micro f s) :=
  Within.andThen T (serveTicks_within T _ rfl) fun t => T.trans _ _ _ (hf t) (T.countdown _)

theorem micro_setHostOp_within {f : State → State} {h : HostOp} (hf : ∀ s, R s (f s)) (s : State) :
    Within R s (micro (fun t => (f t).setHostOp h) s) :=
  micro_within T (fun t => T.trans _ _ _ (hf t) (T.hostOp _ _)) s

theorem hostPins_within {h : HostOp} {es : List (Event × Cursor)} (hpin : ∀ e ∈ es, ∀ s, R s (sendPin e s)) (s : State) :
    Within R s (hostPins h es s) := by
  induction es generalizing s with
  | nil => exact T.refl s
  | cons e es ih =>
    exact Within.andThen T (micro_setHostOp_within T (hpin e List.mem_cons_self) s)
      (ih fun e' he' => hpin e' (List.mem_cons_of_mem _ he'))

theorem hostSlots_within {h : HostOp} (hpin : ∀ e : Event × Cursor, e.1.line ≠ .gck → ∀ s, R s (sendPin e s))
    (sls : List Slot) (s : State) : Within R s (hostSlots h sls s) := by
  induction sls generalizing s with
  | nil => exact T.refl s
  | cons sl rest ih =>
    exact Within.andThen T (hostPins_within T (fun e he => hpin e (wordSteps_line he)) s) ih

theorem hostLoop_within {α : Type} {act : α → State → State} {op : List α → HostOp} (hact : ∀ x s, R s (act x s))
    (todo : List α) (s : State) : Within R s (hostLoop act op todo s) := by
  induction todo generalizing s with
  | nil => exact T.refl s
  | cons x rest ih => exact Within.andThen T (micro_setHostOp_within T (hact x) s) ih

theorem correctionPass_within {after : AfterPass} {h : HostOp} (horder : ∀ s cs, R s (s.setOrder cs))
    (htx : ∀ s i v, R s (s.setTx (s.tx.write i v))) (hready : ∀ s v, R s (s.setReady v)) (s : State) :
    Within R s (correctionPass after h s) := by
  simp only [correctionPass, correctLoop_eq_hostLoop]
  exact Within.andThen T (Within.of_related T (T.trans _ _ _ (horder s _) (T.hostOp _ _))
    (hostLoop_within T (fun i s => htx s i _) _ _)) (micro_setHostOp_within T fun s => hready s true)

theorem switchClock_within {newCfg : Config.Params → Word → Word} {v : Bool}
    (hcfg : ∀ s, R s (s.setCfg (newCfg s.par s.cfg)))
    (hpin : ∀ e : Event × Cursor, e.1.line ≠ .gck → ∀ s, R s (sendPin e s)) (hgck : ∀ s, R s (s.drive ⟨.gck, v⟩))
    (s : State) : Within R s (switchClock newCfg v s) :=
  Within.andThen T (micro_setHostOp_within T hcfg s) fun t =>
    Within.andThen T (hostSlots_within T hpin _ t) (micro_setHostOp_within T hgck)

/-- Every outcome of a command stays within every relation its updates and TICKs stay within. -/
theorem exec_within {i : Instr} (hU : ∀ s t, Update i s t → R s t) (s : State) : Within R s (exec i s) := by
  cases i with
  | drawWr idx val =>
    refine micro_within T (fun t => ?_) s
    unfold withIndex
    split
    exacts [hU _ _ (.drawWr ..), hU _ _ (.drawWrIndex ..)]
  | drawRd idx =>
    refine micro_within T (fun t => ?_) s
    unfold withIndex
    split
    exacts [hU _ _ (.drawRd ..), hU _ _ (.drawRdIndex ..)]
  | setBright val => exact micro_within T (fun t => hU _ _ (.setBright ..)) s
  | clear =>
    simp only [exec, execClear, clearLoop_eq_hostLoop]
    refine Within.andThen T (Within.of_related T (T.trans _ _ _ (hU _ _ (.clearOrder _ s)) (T.hostOp _ _))
      (hostLoop_within T (fun x t => ?_) _ _)) fun t => T.hostOp t .none
    obtain ⟨b, i⟩ := x
    cases b
    exacts [hU _ _ (.clearDraw ..), hU _ _ (.clearTx ..)]
  | correct =>
    exact correctionPass_within T (fun _ _ => hU _ _ (.correctOrder ..)) (fun _ _ _ => hU _ _ (.correctTx ..))
      (fun _ _ => hU _ _ (.correctReady ..)) s
  | writeFrame =>
    refine Within.andThen T (correctionPass_within T (fun _ _ => hU _ _ (.writeFrameOrder ..))
      (fun _ _ _ => hU _ _ (.writeFrameTx ..)) (fun _ _ => hU _ _ (.writeFrameReady ..)) s) fun t => ?_
    exact Within.andThen T (hostSlots_within T (fun e he s => hU _ _ (.writeFramePin e s he)) _ t)
      (micro_setHostOp_within T fun s => hU _ _ (.writeFrameReady ..))
  | putWord k val => exact hostSlots_within T (fun e he s => hU _ _ (.putWordPin k val e s he)) _ s
  | writeConfig => exact hostSlots_within T (fun e he s => hU _ _ (.writeConfigPin e s he)) _ s
  | start =>
    exact switchClock_within T (fun s => hU _ _ (.startCfg s)) (fun e he s => hU _ _ (.startPin e s he))
      (fun s => hU _ _ (.startGck true s)) s
  | stop =>
    exact switchClock_within T (fun s => hU _ _ (.stopCfg s)) (fun e he s => hU _ _ (.stopPin e s he))
      (fun s => hU _ _ (.stopGck false s)) s

end

theorem tickDue_eq_true_iff {s : State} : tickDue s = true ↔ ∃ rest, s.ticks = 0 :: rest := by
  unfold tickDue
  split <;> simp_all

/-- Every outcome of a step stays within every relation closed under what the machine is made of. -/
theorem step_within {R : State → State → Prop} (C : Closed R) (s : State) : Within R s (step s) := by
  have T := C.tickClosed
  by_cases hdue : tickDue s = true
  · obtain ⟨rest, hrest⟩ := tickDue_eq_true_iff.1 hdue
    rw [step_of_tick hrest]
    exact tick_within T hrest
  · have hfree : tickDue s = false := Bool.eq_false_of_not_eq_true hdue
    cases hcmds : s.cmds with
    | nil => rw [step_of_idle hfree hcmds]; exact C.countdown s
    | cons c cs =>
      refine Within.of_related T (C.cmds s c cs hcmds) ?_
      cases hdec : decode c with
      | ok i => rw [step_of_decode_ok hfree hcmds hdec]; exact exec_within T (fun _ _ h => C.update h) _
      | error why => rw [step_of_decode_error hfree hcmds hdec]; exact micro_within T C.illegal _

/-! ### No refusal; the one fault (R9, R182) -/

theorem closed_true : Closed fun _ _ => True := by
  constructor <;> intros <;> trivial

theorem Within.not_refused {R : State → State → Prop} {s : State} {r : Result} (h : Within R s r) (e : Refusal) :
    r ≠ .refused e := by
  rintro rfl
  exact h

theorem raise_collision_bit (b : BitVec 3) : (b ||| FaultCode.collision.mask) &&& 0b100#3 = 0b100#3 := by
  revert b
  decide

/-- Settles O51: outcomes are never refusals (`exec_within`, `step_within`), and a fault is raised by a TICK in a state whose
`HOSTOP` is `serial`. -/
theorem nothingIsRefused : Obligations.NothingIsRefused := by
  refine ⟨fun i s e => (exec_within closed_true.tickClosed (fun _ _ h => closed_true.update h) s).not_refused e,
    fun s e => (step_within closed_true s).not_refused e, fun s u h => ?_⟩
  have hwithin := step_within closed_true s
  rw [h] at hwithin
  obtain ⟨v, rest, -, hserial, -, rfl⟩ := hwithin
  exact ⟨raise_collision_bit v.fault, hserial⟩

/-! ### Relations that every step stays within -/

theorem fault_or_sticky (b m : BitVec 3) : b &&& (b ||| m) = b := by
  revert b m
  decide

theorem sendPin_fault (e : Event × Cursor) (s : State) : (sendPin e s).fault = s.fault := by
  rw [sendPin, State.setSeq_fault, State.drive_fault]

/-- R181: every fault bit of the first state is set in the second. -/
def FaultGrows (s t : State) : Prop := s.fault &&& t.fault = s.fault

theorem FaultGrows.of_eq {s t : State} (h : t.fault = s.fault) : FaultGrows s t := by
  rw [FaultGrows, h, BitVec.and_self]

theorem FaultGrows.raise (f : FaultCode) (s : State) : FaultGrows s (raise f s) := fault_or_sticky ..

theorem FaultGrows.trans {s t u : State} (h : FaultGrows s t) (k : FaultGrows t u) : FaultGrows s u := by
  unfold FaultGrows at *
  rw [← h, BitVec.and_assoc, k]

theorem faultGrows_closed : Closed FaultGrows where
  refl _ := .of_eq rfl
  trans _ _ _ := .trans
  tick _ _ _ _ h := .of_eq (tick_keeps h).fault
  countdown _ := .of_eq rfl
  hostOp _ _ := .of_eq rfl
  order _ _ := .of_eq rfl
  pin _ e := .of_eq (sendPin_fault e _)
  drive _ e := .of_eq (State.drive_fault _ e)
  ready _ _ := .of_eq rfl
  draw _ _ _ := .of_eq rfl
  tx _ _ _ := .of_eq rfl
  bright _ _ := .of_eq rfl
  respond _ _ := .of_eq rfl
  enable _ := .of_eq rfl
  disable _ := .of_eq rfl
  illegal := .raise _
  index := .raise _
  cmds _ _ _ _ := .of_eq rfl

/-- Settles O55: `raise` only sets bits, and nothing else writes `FAULT`. -/
theorem faultBitsSticky : Obligations.FaultBitsSticky := by
  intro s t h
  have hwithin := step_within faultGrows_closed s
  rcases h with h | h <;> rw [h] at hwithin
  · exact hwithin
  · obtain ⟨v, rest, hv, -, -, rfl⟩ := hwithin
    exact FaultGrows.trans hv (FaultGrows.raise .collision _)

end Sys2Proof.Machine
end

section
/-! SUPPORT. Frames and monotone facts of a step, each a relation closed under what the machine is made of: the frame counter
(R192), the traces (R33, R72), the configuration (R25, R213), the access table (R38). -/

namespace Sys2Proof.Machine

/-! ### The frame counter (R192) -/

/-- The TICKs that have left the schedule are counted in `FRAME`. -/
def FrameCounted (s t : State) : Prop :=
  t.ticks.length ≤ s.ticks.length ∧ t.frame = s.frame + BitVec.ofNat 32 (s.ticks.length - t.ticks.length)

theorem FrameCounted.of_eq {s t : State} (hticks : t.ticks.length = s.ticks.length) (hframe : t.frame = s.frame) :
    FrameCounted s t := by
  refine ⟨hticks.le, ?_⟩
  rw [hframe, hticks, Nat.sub_self]
  exact (BitVec.add_zero _).symm

theorem FrameCounted.trans {s t u : State} (h : FrameCounted s t) (k : FrameCounted t u) : FrameCounted s u := by
  obtain ⟨hle, hframe⟩ := h
  obtain ⟨kle, kframe⟩ := k
  refine ⟨kle.trans hle, ?_⟩
  have hsum : s.ticks.length - u.ticks.length = (s.ticks.length - t.ticks.length) + (t.ticks.length - u.ticks.length) := by
    omega
  rw [kframe, hframe, hsum, BitVec.ofNat_add]
  exact BitVec.add_assoc ..

theorem FrameCounted.tick {s t : State} {rest : List Nat} (hs : s.ticks = 0 :: rest) (h : tick (s.setTicks rest) = .next t) :
    FrameCounted s t := by
  have hticks : t.ticks = rest := tick_ticks h
  obtain ⟨-, rfl⟩ := tick_eq_next.1 h
  have hframe : (transmit (s.setTicks rest)).frame = s.frame := by rw [transmit_spec]; rfl
  refine ⟨by rw [hticks, hs]; exact Nat.le_succ _, ?_⟩
  rw [hticks, hs, State.countFrame_frame, hframe, List.length_cons, Nat.add_sub_cancel_left]
  rfl

theorem elapse_length (m : Nat) (ts : List Nat) : (elapse m ts).length = ts.length := by cases ts <;> rfl

theorem frameCounted_closed : Closed FrameCounted where
  refl _ := .of_eq rfl rfl
  trans _ _ _ := .trans
  tick _ _ _ := .tick
  countdown _ := .of_eq (elapse_length ..) rfl
  hostOp _ _ := .of_eq rfl rfl
  order _ _ := .of_eq rfl rfl
  pin _ e := .of_eq (by simp [sendPin]) (by simp [sendPin])
  drive _ e := .of_eq (by simp) (by simp)
  ready _ _ := .of_eq rfl rfl
  draw _ _ _ := .of_eq rfl rfl
  tx _ _ _ := .of_eq rfl rfl
  bright _ _ := .of_eq rfl rfl
  respond _ _ := .of_eq rfl rfl
  enable _ := .of_eq rfl rfl
  disable _ := .of_eq rfl rfl
  illegal _ := .of_eq rfl rfl
  index _ := .of_eq rfl rfl
  cmds _ _ _ _ := .of_eq rfl rfl

/-- Settles O49. -/
theorem frameCountsTicks : Obligations.FrameCountsTicks :=
  fun _ _ => step_related frameCounted_closed

/-! ### The traces (R33, R72) -/

/-- The wire trace and the responses grow at the end, and the lines follow the new events. -/
def TraceGrows (s t : State) : Prop :=
  (∃ es, t.wire = s.wire ++ es ∧ replay s.levels es = t.levels) ∧ ∃ rs, t.resp = s.resp ++ rs

theorem TraceGrows.of_eq {s t : State} (hwire : t.wire = s.wire) (hlevels : t.levels = s.levels) (hresp : t.resp = s.resp) :
    TraceGrows s t :=
  ⟨⟨[], by rw [hwire, List.append_nil], hlevels.symm⟩, [], by rw [hresp, List.append_nil]⟩

theorem TraceGrows.trans {s t u : State} (h : TraceGrows s t) (k : TraceGrows t u) : TraceGrows s u := by
  obtain ⟨⟨es, hwire, hlevels⟩, rs, hresp⟩ := h
  obtain ⟨⟨es', kwire, klevels⟩, rs', kresp⟩ := k
  refine ⟨⟨es ++ es', by rw [kwire, hwire, List.append_assoc], by rw [replay_append, hlevels, klevels]⟩, rs ++ rs', ?_⟩
  rw [kresp, hresp, List.append_assoc]

theorem TraceGrows.drive (s : State) (e : Event) : TraceGrows s (s.drive e) :=
  ⟨⟨[e], State.drive_wire s e, (drive_levels s e).symm⟩, [], by rw [State.drive_resp, List.append_nil]⟩

theorem TraceGrows.sendPin (s : State) (e : Event × Cursor) : TraceGrows s (sendPin e s) :=
  (TraceGrows.drive s e.1).trans (.of_eq rfl rfl rfl)

theorem TraceGrows.sendPins (es : List (Event × Cursor)) (s : State) : TraceGrows s (sendPins es s) := by
  induction es generalizing s with
  | nil => exact .of_eq rfl rfl rfl
  | cons e es ih => exact (TraceGrows.sendPin s e).trans (ih _)

theorem TraceGrows.sendSlots (sls : List Slot) (s : State) : TraceGrows s (sendSlots sls s) := by
  induction sls generalizing s with
  | nil => exact .of_eq rfl rfl rfl
  | cons sl rest ih => exact (TraceGrows.sendPins _ s).trans (ih _)

theorem TraceGrows.tick {s t : State} {rest : List Nat} (h : tick (s.setTicks rest) = .next t) : TraceGrows s t := by
  obtain ⟨-, rfl⟩ := tick_eq_next.1 h
  exact ((TraceGrows.of_eq rfl rfl rfl : TraceGrows s (s.setTicks rest)).trans (TraceGrows.sendSlots _ _)).trans
    (.of_eq rfl rfl rfl)

theorem traceGrows_closed : Closed TraceGrows where
  refl _ := .of_eq rfl rfl rfl
  trans _ _ _ := .trans
  tick _ _ _ _ := .tick
  countdown _ := .of_eq rfl rfl rfl
  hostOp _ _ := .of_eq rfl rfl rfl
  order _ _ := .of_eq rfl rfl rfl
  pin := .sendPin
  drive := .drive
  ready _ _ := .of_eq rfl rfl rfl
  draw _ _ _ := .of_eq rfl rfl rfl
  tx _ _ _ := .of_eq rfl rfl rfl
  bright _ _ := .of_eq rfl rfl rfl
  respond _ v := ⟨⟨[], (List.append_nil _).symm, rfl⟩, [v], rfl⟩
  enable _ := .of_eq rfl rfl rfl
  disable _ := .of_eq rfl rfl rfl
  illegal _ := .of_eq rfl rfl rfl
  index _ := .of_eq rfl rfl rfl
  cmds _ _ _ _ := .of_eq rfl rfl rfl

/-- Settles O56: every level written is an event of the trace (`drive_levels`). -/
theorem tracesOnlyGrow : Obligations.TracesOnlyGrow :=
  fun _ _ => step_related traceGrows_closed

/-! ### The configuration (R25, R213) -/

/-- The parameters and the configuration bits other than `EN` are kept. -/
def ConfigKept (s t : State) : Prop :=
  t.par = s.par ∧ t.cfg &&& ~~~s.par.enMask = s.cfg &&& ~~~s.par.enMask

theorem ConfigKept.of_eq {s t : State} (hpar : t.par = s.par) (hcfg : t.cfg = s.cfg) : ConfigKept s t :=
  ⟨hpar, by rw [hcfg]⟩

theorem ConfigKept.trans {s t u : State} (h : ConfigKept s t) (k : ConfigKept t u) : ConfigKept s u := by
  obtain ⟨hpar, hcfg⟩ := h
  obtain ⟨kpar, kcfg⟩ := k
  rw [hpar] at kcfg
  exact ⟨kpar.trans hpar, kcfg.trans hcfg⟩

theorem or_and_not_self (c m : Word) : (c ||| m) &&& ~~~m = c &&& ~~~m := by
  ext i hi
  simp only [BitVec.getElem_and, BitVec.getElem_or, BitVec.getElem_not, Bool.and_or_distrib_right, Bool.and_not_self,
    Bool.or_false]

theorem configKept_closed : Closed ConfigKept where
  refl _ := .of_eq rfl rfl
  trans _ _ _ := .trans
  tick _ _ _ _ h := .of_eq (tick_keeps h).par (tick_keeps h).cfg
  countdown _ := .of_eq rfl rfl
  hostOp _ _ := .of_eq rfl rfl
  order _ _ := .of_eq rfl rfl
  pin _ e := .of_eq (State.drive_par _ e.1) (State.drive_cfg _ e.1)
  drive _ e := .of_eq (State.drive_par _ e) (State.drive_cfg _ e)
  ready _ _ := .of_eq rfl rfl
  draw _ _ _ := .of_eq rfl rfl
  tx _ _ _ := .of_eq rfl rfl
  bright _ _ := .of_eq rfl rfl
  respond _ _ := .of_eq rfl rfl
  enable s := ⟨rfl, or_and_not_self s.cfg s.par.enMask⟩
  disable s := ⟨rfl, by rw [State.setCfg_cfg, cfgDisabled, BitVec.and_assoc, BitVec.and_self]⟩
  illegal _ := .of_eq rfl rfl
  index _ := .of_eq rfl rfl
  cmds _ _ _ _ := .of_eq rfl rfl

/-- Settles O57: START and STOP write the enable bit only, and no other command writes `CFG`. -/
theorem otherConfigBitsNeverChange : Obligations.OtherConfigBitsNeverChange :=
  fun _ _ => step_related configKept_closed

/-! ### The access table (R38) -/

theorem sendPin_gck {e : Event × Cursor} (he : e.1.line ≠ .gck) (s : State) : (sendPin e s).gck = s.gck := by
  obtain ⟨⟨line, v⟩, c⟩ := e
  cases line with
  | gck => exact absurd rfl he
  | clk | dat | lat => rfl

section
variable {i : Instr} {s t : State} (h : Update i s t)
include h

theorem Update.input_eq : t.par = s.par ∧ t.cmds = s.cmds ∧ t.ticks = s.ticks ∧ t.frame = s.frame := by
  cases h <;> simp [sendPin]

theorem Update.draw_eq (hwr : ∀ idx val, i ≠ .drawWr idx val) (hclear : i ≠ .clear) : t.draw = s.draw := by
  cases h <;> simp_all [sendPin]

theorem Update.tx_eq (hclear : i ≠ .clear) (hcorrect : i ≠ .correct) (hframe : i ≠ .writeFrame) : t.tx = s.tx := by
  cases h <;> simp_all [sendPin]

theorem Update.bright_eq (hset : ∀ val, i ≠ .setBright val) : t.bright = s.bright := by
  cases h <;> simp_all [sendPin]

theorem Update.gate_eq (hstart : i ≠ .start) (hstop : i ≠ .stop) : (t.cfg, t.gck) = (s.cfg, s.gck) := by
  cases h with
  | startCfg | startPin | startGck => exact absurd rfl hstart
  | stopCfg | stopPin | stopGck => exact absurd rfl hstop
  | writeFramePin e _ he | putWordPin _ _ e _ he | writeConfigPin e _ he =>
    rw [sendPin_gck he, sendPin, State.setSeq_cfg, State.drive_cfg]
  | _ => rfl

theorem Update.resp_eq (hrd : ∀ idx, i ≠ .drawRd idx) : t.resp = s.resp := by
  cases h <;> simp_all [sendPin]

theorem Update.fault_eq (hwr : ∀ idx val, i ≠ .drawWr idx val) (hrd : ∀ idx, i ≠ .drawRd idx) : t.fault = s.fault := by
  cases h <;> simp_all [sendPin]

theorem Update.ready_eq (hcorrect : i ≠ .correct) (hframe : i ≠ .writeFrame) : t.ready = s.ready := by
  cases h <;> simp_all [sendPin]

theorem Update.lines_eq (hframe : i ≠ .writeFrame) (hput : ∀ k val, i ≠ .putWord k val) (hconfig : i ≠ .writeConfig)
    (hstart : i ≠ .start) (hstop : i ≠ .stop) : (t.clk, t.dat, t.lat, t.wire) = (s.clk, s.dat, s.lat, s.wire) := by
  cases h <;> simp_all

end

section
variable {β : Type} (f : State → β) (hhostOp : ∀ s h, f (s.setHostOp h) = f s) {i : Instr} {s t : State}
include hhostOp

/-- A part of the state that neither a TICK nor an update of the command writes is kept under every schedule. -/
theorem exec_keeps (hticks : ∀ s ts, f (s.setTicks ts) = f s) (htick : ∀ s t, TickKeeps s t → f t = f s)
    (hU : ∀ s t, Update i s t → f t = f s) (h : exec i s = .next t) : f t = f s := by
  have T : TickClosed fun s t => f t = f s :=
    { refl := fun _ => rfl
      trans := fun _ _ _ h k => k.trans h
      tick := fun s t rest _ h => (htick _ t (tick_keeps h)).trans (hticks s rest)
      countdown := fun s => hticks s _
      hostOp := hhostOp }
  have hwithin := exec_within T hU s
  rwa [h] at hwithin

/-- With no TICK scheduled, a part of the state that no update of the command writes is kept. -/
theorem exec_keeps_of_ticks_nil (hticks : ∀ s ts, f (s.setTicks ts) = f s) (hU : ∀ s t, Update i s t → f t = f s)
    (hs : s.ticks = []) (h : exec i s = .next t) : f t = f s := by
  have T : TickClosed fun s t => s.ticks = [] → t.ticks = [] ∧ f t = f s :=
    { refl := fun _ hs => ⟨hs, rfl⟩
      trans := fun _ _ _ h k hs => ⟨(k (h hs).1).1, (k (h hs).1).2.trans (h hs).2⟩
      tick := fun s t rest hrest _ hs => absurd (hrest.symm.trans hs) (List.cons_ne_nil _ _)
      countdown := fun s hs => ⟨by rw [State.countdown_ticks, hs]; rfl, hticks s _⟩
      hostOp := fun s h hs => ⟨hs, hhostOp s h⟩ }
  have hwithin := exec_within T (i := i) (fun s t hu hs => ⟨hu.input_eq.2.2.1.trans hs, hU s t hu⟩) s
  rw [h] at hwithin
  exact (hwithin hs).2

end

/-- Settles O50: a row of the table for each part of the state, from the updates the command is made of. -/
theorem accessTable : Obligations.AccessTable := by
  intro i s t h
  refine ⟨?par, ?cmds, fun hwr hclear => ?draw, fun hclear hcorrect hframe => ?tx, fun hset => ?bright,
    fun hstart hstop => ?gate, fun hrd => ?resp, fun hwr hrd => ?fault, fun hnone => ⟨?frame, fun hcorrect hframe => ?ready,
    fun hframe hput hconfig hstart hstop => ?lines⟩⟩
  case par => exact exec_keeps State.par (fun _ _ => rfl) (fun _ _ => rfl) (fun _ _ k => k.par) (fun _ _ hu => hu.input_eq.1) h
  case cmds =>
    exact exec_keeps State.cmds (fun _ _ => rfl) (fun _ _ => rfl) (fun _ _ k => k.cmds) (fun _ _ hu => hu.input_eq.2.1) h
  case draw =>
    exact exec_keeps State.draw (fun _ _ => rfl) (fun _ _ => rfl) (fun _ _ k => k.draw) (fun _ _ hu => hu.draw_eq hwr hclear) h
  case tx =>
    exact exec_keeps State.tx (fun _ _ => rfl) (fun _ _ => rfl) (fun _ _ k => k.tx)
      (fun _ _ hu => hu.tx_eq hclear hcorrect hframe) h
  case bright =>
    exact exec_keeps State.bright (fun _ _ => rfl) (fun _ _ => rfl) (fun _ _ k => k.bright) (fun _ _ hu => hu.bright_eq hset) h
  case gate =>
    have hgate := exec_keeps (fun s => (s.cfg, s.gck)) (fun _ _ => rfl) (fun _ _ => rfl)
      (fun _ _ k => Prod.ext k.cfg k.gck) (fun _ _ hu => hu.gate_eq hstart hstop) h
    simpa using hgate
  case resp =>
    exact exec_keeps State.resp (fun _ _ => rfl) (fun _ _ => rfl) (fun _ _ k => k.resp) (fun _ _ hu => hu.resp_eq hrd) h
  case fault =>
    exact exec_keeps State.fault (fun _ _ => rfl) (fun _ _ => rfl) (fun _ _ k => k.fault) (fun _ _ hu => hu.fault_eq hwr hrd) h
  case frame =>
    exact exec_keeps_of_ticks_nil State.frame (fun _ _ => rfl) (fun _ _ => rfl) (fun _ _ hu => hu.input_eq.2.2.2) hnone h
  case ready =>
    exact exec_keeps_of_ticks_nil State.ready (fun _ _ => rfl) (fun _ _ => rfl) (fun _ _ hu => hu.ready_eq hcorrect hframe)
      hnone h
  case lines =>
    have hlines := exec_keeps_of_ticks_nil (fun s => (s.clk, s.dat, s.lat, s.wire)) (fun _ _ => rfl) (fun _ _ => rfl)
      (fun _ _ hu => hu.lines_eq hframe hput hconfig hstart hstop) hnone h
    simpa using hlines

/-! ### The buffer commands (R182) -/

theorem hostLoop_completes {α : Type} {act : α → State → State} {op : List α → HostOp} (hop : ∀ left, op left ≠ .serial)
    (todo : List α) {s : State} (hfree : s.hostop ≠ .serial) :
    ∃ t, hostLoop act op todo s = .next t ∧ t.hostop ≠ .serial := by
  induction todo generalizing s with
  | nil => exact ⟨s, rfl, hfree⟩
  | cons x rest ih =>
    obtain ⟨u, -, hu⟩ := micro_completes (fun t => (act x t).setHostOp (op rest)) hfree
    obtain ⟨t, ht, hfree'⟩ := ih (s := ((act x u).setHostOp (op rest)).countdown) (hop rest)
    exact ⟨t, by rw [hostLoop, hu, andThen_next, ht], hfree'⟩

theorem micro_next (f : State → State) {s : State} (hfree : s.hostop ≠ .serial) : ∃ t, micro f s = .next t :=
  (micro_completes f hfree).elim fun _ h => ⟨_, h.2⟩

theorem execClear_next (s : State) : ∃ t, execClear s = .next t := by
  obtain ⟨t, ht, -⟩ := hostLoop_completes (act := clearElement) (op := .clear) (fun _ => by simp)
    (arrange s.order (clearTargets s.par.n)) (s := (s.setOrder (s.order.drop
      (arrange s.order (clearTargets s.par.n)).length)).setHostOp (.clear (arrange s.order (clearTargets s.par.n))))
    (by simp)
  simp only [execClear, clearLoop_eq_hostLoop]
  exact ⟨_, by rw [ht, andThen_next]⟩

theorem execCorrect_next (s : State) : ∃ t, execCorrect s = .next t := by
  obtain ⟨t, ht, hfree⟩ := hostLoop_completes (act := correctPixel) (op := fun left => .correct left .stop)
    (fun _ => by simp) (arrange s.order (List.range s.par.n)) (s := (s.setOrder (s.order.drop
      (arrange s.order (List.range s.par.n)).length)).setHostOp (.correct (arrange s.order (List.range s.par.n)) .stop))
    (by simp)
  obtain ⟨u, hu⟩ := micro_next (fun t => (t.setReady true).setHostOp .none) hfree
  simp only [execCorrect, correctionPass, correctLoop_eq_hostLoop]
  exact ⟨u, by rw [ht, andThen_next, hu]⟩

/-- Settles O53: none of these commands enters a serial window, so each of its micro-steps completes. -/
theorem bufferCommandsNeverStop : Obligations.BufferCommandsNeverStop := by
  rintro i s hfree (⟨idx, val, rfl⟩ | ⟨idx, rfl⟩ | ⟨val, rfl⟩ | rfl | rfl)
  · exact micro_next _ hfree
  · exact micro_next _ hfree
  · exact micro_next _ hfree
  · exact execClear_next s
  · exact execCorrect_next s

/-! ### TICK (R183, R185) -/

/-- Settles O43: TRANSMIT reads `TX` and the parameters, and clears `READY` whatever it was. -/
theorem tickIgnoresReady : Obligations.TickIgnoresReady := by
  intro s v hfree
  have htick := tick_eq_next.2 ⟨hfree, rfl⟩
  have hready : transmit (s.setReady v) = transmit s := by
    rw [transmit_spec, transmit_spec]
    rfl
  rw [htick, (tick_eq_next (s := s.setReady v)).2 ⟨hfree, rfl⟩, hready]

/-- Settles O44: a TICK leaves `TX` and everything else the frame is read from. -/
theorem repeatedTickResendsFrame : Obligations.RepeatedTickResendsFrame := by
  intro s hfree
  have hfirst : tick s = .next (transmit s).countFrame := tick_eq_next.2 ⟨hfree, rfl⟩
  have hkeeps := tick_keeps hfirst
  have hsecond := (tick_eq_next (s := (transmit s).countFrame)).2 ⟨hkeeps.hostop ▸ hfree, rfl⟩
  have hkeeps' := tick_keeps hsecond
  have hwords : slotWords (transmit s).countFrame (framePlan s.par) = slotWords s (framePlan s.par) :=
    List.map_congr_left fun sl _ => by rw [Slot.value_congr hkeeps.tx hkeeps.cfg]
  refine ⟨_, _, wordsEvents (slotWords s (framePlan s.par)), hfirst, hsecond, ?_, ?_, hkeeps'.tx.trans hkeeps.tx,
    hkeeps'.draw.trans hkeeps.draw, ?_, ?_, ?_⟩
  · simp [transmit_spec]
  · rw [← hwords, State.countFrame_wire, transmit_spec (transmit s).countFrame, hkeeps.par]
  · simp [transmit_spec]
  · simp [transmit_spec]
  · have hframe : ∀ u : State, (transmit u).frame = u.frame := fun u => by rw [transmit_spec]
    simp only [State.countFrame_frame, hframe]
    exact BitVec.add_assoc s.frame 1 1

end Sys2Proof.Machine
end

section
/-! SUPPORT. Nothing is gated on `EN` or `GCK` (R164): putting another `CFG` and another `GCK` under a command that does not
send or switch the configuration commutes with everything the command is made of. -/

namespace Sys2Proof.Machine

section
variable (g : Bool) (c : Word)

/-- The operation does the same with another `GCK` and another `CFG`, those two being carried along. -/
def Ungated (f : State → Result) : Prop :=
  ∀ s, f (s.withGate g c) = mapResult (State.withGate g c) (f s)

theorem andThen_mapResult {f : State → Result} (hf : Ungated g c f) (r : Result) :
    andThen (mapResult (State.withGate g c) r) f = mapResult (State.withGate g c) (andThen r f) := by
  cases r with
  | next s => exact hf s
  | fault e => rfl
  | refused e => rfl

theorem Ungated.seq {f f' : State → Result} (hf : Ungated g c f) (hf' : Ungated g c f') :
    Ungated g c fun s => andThen (f s) f' := fun s => by
  simp only [hf s, andThen_mapResult g c hf']

/-- The frame's words are constants and elements of `TX`. -/
theorem framePlan_value_withGate {p : Config.Params} {sl : Slot} (h : sl ∈ framePlan p) (s : State) :
    sl.value (s.withGate g c) = sl.value s := by
  simp only [framePlan, List.mem_append, List.mem_map, List.mem_singleton] at h
  rcases h with (⟨j, -, rfl⟩ | ⟨i, -, rfl⟩) | rfl <;> rfl

theorem tick_ungated : Ungated g c tick := by
  intro s
  have hwords : slotWords (s.withGate g c) (framePlan s.par) = slotWords s (framePlan s.par) :=
    List.map_congr_left fun sl hsl => by rw [framePlan_value_withGate g c hsl]
  have htransmit : transmit (s.withGate g c) = (transmit s).withGate g c := by
    rw [transmit_spec, transmit_spec]
    simp only [State.withGate] at hwords ⊢
    rw [hwords]
  by_cases hserial : s.hostop = .serial
  · rw [(tick_eq_fault (s := s.withGate g c)).2 ⟨hserial, rfl⟩, tick_eq_fault.2 ⟨hserial, rfl⟩]
    rfl
  · rw [(tick_eq_next (s := s.withGate g c)).2 ⟨hserial, rfl⟩, tick_eq_next.2 ⟨hserial, rfl⟩, htransmit]
    rfl

theorem serveTicks_ungated (ts : List Nat) : Ungated g c (serveTicks ts) := by
  induction ts with
  | nil => exact fun _ => rfl
  | cons k rest ih =>
    cases k with
    | zero => exact fun s => (Ungated.seq g c (tick_ungated g c) ih) (s.setTicks rest)
    | succ k => exact fun _ => rfl

theorem micro_ungated {f : State → State} (hf : ∀ s, f (s.withGate g c) = (f s).withGate g c) : Ungated g c (micro f) := by
  have hstep : Ungated g c fun t => .next (f t).countdown := fun t =>
    congrArg (fun u : State => (.next u.countdown : Result)) (hf t)
  exact fun s => (Ungated.seq g c (serveTicks_ungated g c s.ticks) hstep) s

theorem sendPin_withGate {e : Event × Cursor} (he : e.1.line ≠ .gck) (s : State) :
    sendPin e (s.withGate g c) = (sendPin e s).withGate g c := by
  obtain ⟨⟨line, v⟩, cur⟩ := e
  cases line with
  | gck => exact absurd rfl he
  | clk | dat | lat => rfl

theorem hostPins_ungated {h : HostOp} {es : List (Event × Cursor)} (hes : ∀ e ∈ es, e.1.line ≠ .gck) :
    Ungated g c (hostPins h es) := by
  induction es with
  | nil => exact fun _ => rfl
  | cons e es ih =>
    exact Ungated.seq g c (micro_ungated g c fun s =>
      congrArg (fun u : State => u.setHostOp _) (sendPin_withGate g c (hes e List.mem_cons_self) s))
      (ih fun e' he' => hes e' (List.mem_cons_of_mem _ he'))

theorem hostSlots_ungated {h : HostOp} {sls : List Slot}
    (hsls : ∀ sl ∈ sls, ∀ s, sl.value (s.withGate g c) = sl.value s) : Ungated g c (hostSlots h sls) := by
  induction sls with
  | nil => exact fun _ => rfl
  | cons sl rest ih =>
    have hrest := ih fun sl' hsl' => hsls sl' (List.mem_cons_of_mem _ hsl')
    intro s
    have hsteps : slotSteps sl rest (s.withGate g c) = slotSteps sl rest s := by
      rw [slotSteps, slotSteps, hsls sl List.mem_cons_self]
    rw [hostSlots, hsteps]
    exact (Ungated.seq g c (hostPins_ungated g c fun e he => wordSteps_line he) hrest) s

theorem hostLoop_ungated {α : Type} {act : α → State → State} {op : List α → HostOp}
    (hact : ∀ x s, act x (s.withGate g c) = (act x s).withGate g c) (todo : List α) : Ungated g c (hostLoop act op todo) := by
  induction todo with
  | nil => exact fun _ => rfl
  | cons x rest ih => exact Ungated.seq g c (micro_ungated g c fun s =>
      congrArg (fun u : State => u.setHostOp (op rest)) (hact x s)) ih

theorem correctionPass_ungated (after : AfterPass) (h : HostOp) : Ungated g c (correctionPass after h) := by
  intro s
  simp only [correctionPass, correctLoop_eq_hostLoop]
  have hloop := hostLoop_ungated g c (act := correctPixel) (op := fun left => .correct left after) (fun _ _ => rfl)
    (arrange s.order (List.range s.par.n))
  have hready := micro_ungated g c (f := fun t => (t.setReady true).setHostOp h) fun _ => rfl
  exact Ungated.seq g c hloop hready ((s.setOrder _).setHostOp _)

theorem execClear_ungated : Ungated g c execClear := by
  have hlast : Ungated g c fun t => .next (t.setHostOp .none) := fun _ => rfl
  have hact : ∀ x s, clearElement x (s.withGate g c) = (clearElement x s).withGate g c := fun x _ => by
    obtain ⟨b, i⟩ := x
    cases b <;> rfl
  intro s
  simp only [execClear, clearLoop_eq_hostLoop]
  exact (Ungated.seq g c (hostLoop_ungated g c hact _) hlast) ((s.setOrder _).setHostOp _)

theorem withIndex_withGate (idx : Nat) {act : State → State} (hact : ∀ s, act (s.withGate g c) = (act s).withGate g c)
    (s : State) : withIndex idx act (s.withGate g c) = (withIndex idx act s).withGate g c := by
  by_cases h : idx < s.par.n
  · rw [withIndex_of_lt _ h, ← hact]
    exact withIndex_of_lt _ h
  · rw [withIndex_of_le _ (Nat.not_lt.1 h)]
    exact withIndex_of_le _ (Nat.not_lt.1 h)

theorem exec_ungated {i : Instr} (hconfig : i ≠ .writeConfig) (hstart : i ≠ .start) (hstop : i ≠ .stop) :
    Ungated g c (exec i) := by
  cases i with
  | drawWr idx val => exact micro_ungated g c (withIndex_withGate g c idx fun _ => rfl)
  | drawRd idx => exact micro_ungated g c (withIndex_withGate g c idx fun _ => rfl)
  | setBright val => exact micro_ungated g c fun _ => rfl
  | clear => exact execClear_ungated g c
  | correct => exact correctionPass_ungated g c .stop .none
  | putWord k val =>
    refine hostSlots_ungated g c fun sl hsl s => ?_
    rw [List.mem_singleton.1 hsl]
    rfl
  | writeFrame =>
    have hready := micro_ungated g c (f := fun u => (u.setReady false).setHostOp .none) fun _ => rfl
    have hsend : Ungated g c fun t => andThen (hostSlots .between (framePlan t.par) t)
        (micro (fun u => (u.setReady false).setHostOp .none)) := fun t =>
      Ungated.seq g c (hostSlots_ungated g c (h := .between) fun sl hsl s => framePlan_value_withGate g c hsl s) hready t
    exact Ungated.seq g c (correctionPass_ungated g c .transmit .between) hsend
  | writeConfig => exact absurd rfl hconfig
  | start => exact absurd rfl hstart
  | stop => exact absurd rfl hstop

end

/-- Settles O54. -/
theorem nothingGatedOnEnable : Obligations.NothingGatedOnEnable :=
  fun g c s => ⟨tick_ungated g c s, fun _ hconfig hstart hstop => exec_ungated g c hconfig hstart hstop s⟩

end Sys2Proof.Machine
end

section
/-! SUPPORT. Serial operations of the host (R158 to R166) as one row of pin micro-steps: the due TICKs come before the first
pin event; a TICK strictly inside collides; otherwise the words are sent as if undivided. -/

namespace Sys2Proof.Machine

/-! ### The pin events of an operation in one row -/

/-- The pin events of words in a row, each with its cursor, the words read from `s`. -/
def planSteps (sls : List Slot) (s : State) : List (Event × Cursor) :=
  match sls with
  | [] => []
  | sl :: rest => slotSteps sl rest s ++ planSteps rest s

theorem planSteps_events (sls : List Slot) (s : State) :
    (planSteps sls s).map Prod.fst = wordsEvents (slotWords s sls) := by
  induction sls with
  | nil => rfl
  | cons sl rest ih =>
    rw [planSteps, List.map_append, ih, slotSteps, wordSteps_events]
    simp [slotWords, wordsEvents]

theorem planSteps_length (sls : List Slot) (s : State) :
    (planSteps sls s).length = (wordsEvents (slotWords s sls)).length := by
  rw [← planSteps_events, List.length_map]

theorem slotSteps_ne_nil (sl : Slot) (rest : List Slot) (s : State) : slotSteps sl rest s ≠ [] := by
  obtain ⟨es, hes⟩ := wordSteps_last sl.phase sl.w (cursorOf rest) (sl.value s) sl.k
  simp [slotSteps, hes]

theorem planSteps_ne_nil {sls : List Slot} (h : sls ≠ []) (s : State) : planSteps sls s ≠ [] := by
  cases sls with
  | nil => exact absurd rfl h
  | cons sl rest => exact List.append_ne_nil_of_left_ne_nil (slotSteps_ne_nil sl rest s) _

theorem planSteps_line {sls : List Slot} {s : State} {e : Event × Cursor} (h : e ∈ planSteps sls s) : e.1.line ≠ .gck := by
  induction sls with
  | nil => cases h
  | cons sl rest ih =>
    rcases List.mem_append.1 h with h | h
    · exact wordSteps_line h
    · exact ih h

theorem planSteps_congr {s t : State} (htx : t.tx = s.tx) (hcfg : t.cfg = s.cfg) (sls : List Slot) :
    planSteps sls t = planSteps sls s := by
  induction sls with
  | nil => rfl
  | cons sl rest ih => rw [planSteps, planSteps, ih, slotSteps, slotSteps, Slot.value_congr htx hcfg]

theorem slotWords_congr {s t : State} (htx : t.tx = s.tx) (hcfg : t.cfg = s.cfg) (sls : List Slot) :
    slotWords t sls = slotWords s sls :=
  List.map_congr_left fun sl _ => by rw [Slot.value_congr htx hcfg]

theorem sendPins_tx_cfg (es : List (Event × Cursor)) (s : State) :
    (sendPins es s).tx = s.tx ∧ (sendPins es s).cfg = s.cfg := by
  rw [sendPins_spec]
  exact ⟨rfl, rfl⟩

theorem sendSlots_eq_sendPins (sls : List Slot) (s : State) : sendSlots sls s = sendPins (planSteps sls s) s := by
  induction sls generalizing s with
  | nil => rfl
  | cons sl rest ih =>
    obtain ⟨htx, hcfg⟩ := sendPins_tx_cfg (slotSteps sl rest s) s
    rw [sendSlots, planSteps, sendPins_append, ih, planSteps_congr htx hcfg]

theorem andThen_next_right (r : Result) : andThen r .next = r := by cases r <;> rfl

theorem andThen_congr {r : Result} {f f' : State → Result} (h : ∀ t, r = .next t → f t = f' t) :
    andThen r f = andThen r f' := by
  cases r with
  | next t => exact h t rfl
  | fault e => rfl
  | refused e => rfl

/-- `HOSTOP` is `serial` at the seam of two rows. -/
theorem hostPins_append {h : HostOp} (es : List (Event × Cursor)) {es' : List (Event × Cursor)} (hne : es' ≠ []) (s : State) :
    hostPins h (es ++ es') s = andThen (hostPins .serial es s) (hostPins h es') := by
  induction es generalizing s with
  | nil => rfl
  | cons e es ih =>
    have hleft : (es ++ es').isEmpty = false := by simp [hne]
    rw [List.cons_append, hostPins, hostPins, andThen_assoc, hleft, ite_self, funext ih]
    rfl

theorem hostPins_tx_cfg {h : HostOp} {es : List (Event × Cursor)} {s t : State} (ht : hostPins h es s = .next t) :
    t.tx = s.tx ∧ t.cfg = s.cfg := by
  have T : TickClosed fun s t => t.tx = s.tx ∧ t.cfg = s.cfg :=
    { refl := fun _ => ⟨rfl, rfl⟩
      trans := fun _ _ _ h k => ⟨k.1.trans h.1, k.2.trans h.2⟩
      tick := fun _ _ _ _ h => ⟨(tick_keeps h).tx, (tick_keeps h).cfg⟩
      countdown := fun _ => ⟨rfl, rfl⟩
      hostOp := fun _ _ => ⟨rfl, rfl⟩ }
  have hwithin := hostPins_within T (h := h) (es := es) (fun e _ s => sendPins_tx_cfg [e] s) s
  rwa [ht] at hwithin

/-- A serial operation is one row of pin micro-steps: no TICK changes the words still to be read. -/
theorem hostSlots_eq_hostPins {h : HostOp} (sls : List Slot) (s : State) :
    hostSlots h sls s = hostPins h (planSteps sls s) s := by
  induction sls generalizing s with
  | nil => rfl
  | cons sl rest ih =>
    rw [hostSlots, planSteps]
    cases rest with
    | nil =>
      rw [planSteps, List.append_nil]
      exact andThen_next_right _
    | cons sl' rest =>
      rw [hostPins_append _ (planSteps_ne_nil (List.cons_ne_nil _ _) s)]
      refine andThen_congr fun t ht => ?_
      obtain ⟨htx, hcfg⟩ := hostPins_tx_cfg ht
      rw [ih, planSteps_congr htx hcfg]

/-! ### TICKs before a row of pin events, and inside it -/

theorem serveTicks_ticks {ts : List Nat} {s u : State} (hs : s.ticks = ts) (h : serveTicks ts s = .next u) :
    u.ticks = ts.dropWhile (fun k => k == 0) := by
  induction ts generalizing s with
  | nil =>
    cases h
    exact hs
  | cons k rest ih =>
    cases k with
    | zero =>
      obtain ⟨v, hv, hu⟩ := andThen_eq_next.1 h
      exact ih (tick_ticks hv) hu
    | succ k =>
      cases h
      exact hs

theorem quiet_one_of_ticks_dropWhile {u : State} {ts : List Nat} (h : u.ticks = ts.dropWhile (fun k => k == 0)) :
    u.quiet 1 = true := by
  have hhead := List.head?_dropWhile_not (fun k => k == 0) ts
  rw [← h] at hhead
  unfold State.quiet
  cases hu : u.ticks with
  | nil => rfl
  | cons k rest =>
    rw [hu] at hhead
    simp at hhead
    simp
    omega

/-- The due TICKs are served before the first pin event. -/
theorem hostPins_serve {h : HostOp} {es : List (Event × Cursor)} (hne : es ≠ []) (s : State) :
    hostPins h es s = andThen (serveTicks s.ticks s) (hostPins h es) := by
  cases es with
  | nil => exact absurd rfl hne
  | cons e es =>
    simp only [hostPins, hostPin, micro]
    rw [andThen_assoc]
    refine andThen_congr fun u hu => ?_
    have hquiet := quiet_one_of_ticks_dropWhile (serveTicks_ticks rfl hu)
    rw [serveTicks_of_quiet hquiet]
    rfl

/-- What the host has left when a TICK finds it after `m` pin events of a serial operation. -/
def cutState (es : List (Event × Cursor)) (m : Nat) (rest : List Nat) (s : State) : State :=
  raise .collision { sendPins (es.take m) s with hostop := .serial, ticks := rest }

/-- A TICK strictly inside a row of pin events collides (R166, R187). -/
theorem hostPins_collides {h : HostOp} {es : List (Event × Cursor)} {s : State} {m : Nat} {rest : List Nat}
    (hticks : s.ticks = m :: rest) (hpos : 0 < m) (hlt : m < es.length) :
    hostPins h es s = .fault (.collision (cutState es m rest s)) := by
  have hlen : (es.take m).length = m := List.length_take_of_le hlt.le
  have hquiet : s.quiet (es.take m).length = true := by simp [State.quiet, hticks, hlen]
  have hne : es.drop m ≠ [] := List.ne_nil_of_length_pos (by rw [List.length_drop]; omega)
  have hsent : (es.take m).isEmpty = false := by
    rw [List.isEmpty_eq_false_iff]
    exact List.ne_nil_of_length_pos (by omega)
  have hdue : elapse (es.take m).length s.ticks = 0 :: rest := by rw [hticks, hlen, elapse, Nat.sub_self]
  conv_lhs => rw [← List.take_append_drop m es]
  rw [hostPins_append _ hne, hostPins_of_quiet _ hquiet, andThen_next, hostPins_serve hne, hdue, hsent]
  rfl

/-- A row of pin events that completes: some TICKs first, none inside (R166). -/
theorem hostPins_eq_next {h : HostOp} {es : List (Event × Cursor)} (hne : es ≠ []) {s t : State}
    (ht : hostPins h es s = .next t) :
    ∃ u, serveTicks s.ticks s = .next u ∧ u.quiet es.length = true ∧
      t = { sendPins es u with hostop := h, ticks := elapse es.length u.ticks } := by
  rw [hostPins_serve hne] at ht
  obtain ⟨u, hu, hrest⟩ := andThen_eq_next.1 ht
  have hone := quiet_one_of_ticks_dropWhile (serveTicks_ticks rfl hu)
  have hquiet : u.quiet es.length = true := by
    by_contra hnot
    unfold State.quiet at hone hnot
    cases hticks : u.ticks with
    | nil => simp [hticks] at hnot
    | cons m rest =>
      rw [hticks] at hone hnot
      rw [hostPins_collides hticks (of_decide_eq_true hone) (by simpa using hnot)] at hrest
      cases hrest
  refine ⟨u, hu, hquiet, ?_⟩
  rw [hostPins_of_quiet es hquiet] at hrest
  have hsent : es.isEmpty = false := List.isEmpty_eq_false_iff.2 hne
  rw [hsent] at hrest
  cases hrest
  rfl

/-! ### Serial operations under any schedule -/

section
variable {h : HostOp} {sls : List Slot}

theorem hostSlots_collides {s : State} {m : Nat} {rest : List Nat} (hticks : s.ticks = m :: rest) (hpos : 0 < m)
    (hlt : m < (wordsEvents (slotWords s sls)).length) :
    hostSlots h sls s = .fault (.collision (cutState (planSteps sls s) m rest s)) := by
  rw [hostSlots_eq_hostPins, hostPins_collides hticks hpos (by rwa [planSteps_length])]

/-- A serial operation that completes: some TICKs first, then its words as if undivided. -/
theorem hostSlots_eq_next (hne : sls ≠ []) {s t : State} (ht : hostSlots h sls s = .next t) :
    ∃ u, serveTicks s.ticks s = .next u ∧ u.quiet (wordsEvents (slotWords s sls)).length = true ∧
      t = { sendSlots sls u with hostop := h, ticks := elapse (wordsEvents (slotWords s sls)).length u.ticks } := by
  rw [hostSlots_eq_hostPins] at ht
  obtain ⟨u, hu, hquiet, ht⟩ := hostPins_eq_next (planSteps_ne_nil hne s) ht
  rw [planSteps_length] at hquiet ht
  have hkeeps := serveTicks_keeps hu
  refine ⟨u, hu, hquiet, ?_⟩
  rw [ht, sendSlots_eq_sendPins, planSteps_congr hkeeps.tx hkeeps.cfg]

theorem sendSlots_setTicks (sls : List Slot) (s : State) (ts : List Nat) :
    sendSlots sls (s.setTicks ts) = (sendSlots sls s).setTicks ts := by
  have hplan : planSteps sls (s.setTicks ts) = planSteps sls s :=
    planSteps_congr (s := s) (t := s.setTicks ts) rfl rfl sls
  rw [sendSlots_eq_sendPins, sendSlots_eq_sendPins, hplan, sendPins_spec, sendPins_spec]
  rfl

/-- TICKs due before a serial operation of the host are ordinary ones; none falling inside, the words are sent whole. -/
theorem hostSlots_of_free (hne : sls ≠ []) {s : State} (hfree : s.hostop ≠ .serial) (htx : s.tx.length = s.par.n)
    (hquiet : (s.setTicks (s.ticks.dropWhile fun k => k == 0)).quiet (wordsEvents (slotWords s sls)).length = true) :
    hostSlots h sls s =
      .next (((sendSlots sls (s.sendFrames (List.replicate (ticksWithin 1 s.ticks) s.tx))).setHostOp h).setTicks
        (elapse (wordsEvents (slotWords s sls)).length (s.ticks.dropWhile fun k => k == 0))) := by
  have hserve := serveTicks_of_free hfree htx s.ticks
  have hself : s.setTicks s.ticks = s := rfl
  have hplan := planSteps_congr (s := s) (t := (s.sendFrames (List.replicate (ticksWithin 1 s.ticks) s.tx)).setTicks
    (s.ticks.dropWhile fun k => k == 0)) (by simp) (by simp) sls
  have hwords := slotWords_congr (s := s) (t := (s.sendFrames (List.replicate (ticksWithin 1 s.ticks) s.tx)).setTicks
    (s.ticks.dropWhile fun k => k == 0)) (by simp) (by simp) sls
  rw [hself] at hserve
  rw [hostSlots_eq_hostPins, hostPins_serve (planSteps_ne_nil hne s), hserve, andThen_next, ← hplan,
    ← hostSlots_eq_hostPins, hostSlots_of_quiet sls hne (hwords ▸ hquiet), hwords, sendSlots_setTicks]
  rfl

/-- The converse: an operation that completes from outside a serial window met no TICK inside. -/
theorem quiet_of_hostSlots_next (hne : sls ≠ []) {s t : State} (ht : hostSlots h sls s = .next t) :
    (s.setTicks (s.ticks.dropWhile fun k => k == 0)).quiet (wordsEvents (slotWords s sls)).length = true := by
  obtain ⟨u, hu, hquiet, -⟩ := hostSlots_eq_next hne ht
  unfold State.quiet at hquiet ⊢
  rwa [serveTicks_ticks rfl hu] at hquiet

end

/-! ### The lines and `HOSTOP` after a command (R35, R225) -/

/-- The cursor idle, clock and latch low. -/
def LinesRest (s : State) : Prop := s.seq = .idle ∧ s.clk = false ∧ s.lat = false

/-- A serial operation leaves the lines at rest from every state. -/
theorem hostSlots_rest {h : HostOp} {sls : List Slot} (hne : sls ≠ []) {s t : State} (ht : hostSlots h sls s = .next t) :
    t.hostop = h ∧ LinesRest t := by
  obtain ⟨u, -, -, rfl⟩ := hostSlots_eq_next hne ht
  rw [sendSlots_spec sls u hne]
  exact ⟨rfl, rfl, rfl, rfl⟩

/-- Outside pin events lines at rest stay so: a TICK leaves them at rest too. -/
theorem linesRest_tickClosed : TickClosed fun s t => LinesRest s → LinesRest t where
  refl _ h := h
  trans _ _ _ h k hs := k (h hs)
  tick s t rest _ ht _ := by
    obtain ⟨-, rfl⟩ := tick_eq_next.1 ht
    rw [transmit_spec]
    exact ⟨rfl, rfl, rfl⟩
  countdown _ h := h
  hostOp _ _ h := h

theorem micro_setHostOp_rest {f : State → State} {h : HostOp} (hf : ∀ s, LinesRest s → LinesRest (f s)) {s t : State}
    (hs : LinesRest s) (ht : micro (fun u => (f u).setHostOp h) s = .next t) : t.hostop = h ∧ LinesRest t := by
  have hwithin := micro_setHostOp_within linesRest_tickClosed (h := h) hf s
  rw [ht] at hwithin
  obtain ⟨u, -, rfl⟩ := micro_eq_next.1 ht
  exact ⟨rfl, hwithin hs⟩

/-- Only the serial commands move the lines. -/
theorem Update.rest {i : Instr} {s t : State} (h : Update i s t) (hframe : i ≠ .writeFrame)
    (hput : ∀ k val, i ≠ .putWord k val) (hconfig : i ≠ .writeConfig) (hstart : i ≠ .start) (hstop : i ≠ .stop)
    (hs : LinesRest s) : LinesRest t := by
  have hlines := h.lines_eq hframe hput hconfig hstart hstop
  have hseq : t.seq = s.seq := by cases h <;> simp_all
  obtain ⟨sseq, sclk, slat⟩ := hs
  simp only [Prod.mk.injEq] at hlines
  obtain ⟨hclk, -, hlat, -⟩ := hlines
  exact ⟨hseq.trans sseq, hclk.trans sclk, hlat.trans slat⟩

theorem switchClock_rest {newCfg : Config.Params → Word → Word} {v : Bool} {s t : State}
    (h : switchClock newCfg v s = .next t) : t.hostop = .none ∧ LinesRest t := by
  obtain ⟨u, -, hrest⟩ := andThen_eq_next.1 h
  obtain ⟨w, hw, hlast⟩ := andThen_eq_next.1 hrest
  exact micro_setHostOp_rest (f := fun u => u.drive ⟨.gck, v⟩) (fun _ hu => hu)
    (hostSlots_rest (List.cons_ne_nil _ _) hw).2 hlast

theorem micro_hostop {f : State → State} {s t : State} (h : micro f s = .next t) (hf : ∀ s, (f s).hostop = s.hostop) :
    t.hostop = s.hostop := by
  obtain ⟨u, hu, rfl⟩ := micro_eq_next.1 h
  exact (hf u).trans (serveTicks_keeps hu).hostop

theorem withIndex_hostop {idx : Nat} {act : State → State} (hact : ∀ s, (act s).hostop = s.hostop) (s : State) :
    (withIndex idx act s).hostop = s.hostop := by
  unfold withIndex
  split
  exacts [hact s, rfl]

/-- After a command no host command is in progress, if none was before (R35, R58). -/
theorem exec_hostop {i : Instr} {s t : State} (h : exec i s = .next t) : t.hostop = .none ∨ t.hostop = s.hostop := by
  cases i with
  | drawWr idx val => exact .inr (micro_hostop h (withIndex_hostop fun _ => rfl))
  | drawRd idx => exact .inr (micro_hostop h (withIndex_hostop fun _ => rfl))
  | setBright val => exact .inr (micro_hostop h fun _ => rfl)
  | clear =>
    obtain ⟨u, -, hlast⟩ := andThen_eq_next.1 h
    cases hlast
    exact .inl rfl
  | correct =>
    obtain ⟨u, -, hlast⟩ := andThen_eq_next.1 h
    obtain ⟨w, -, rfl⟩ := micro_eq_next.1 hlast
    exact .inl rfl
  | writeFrame =>
    obtain ⟨u, -, hrest⟩ := andThen_eq_next.1 h
    obtain ⟨v, -, hlast⟩ := andThen_eq_next.1 hrest
    obtain ⟨w, -, rfl⟩ := micro_eq_next.1 hlast
    exact .inl rfl
  | putWord k val => exact .inl (hostSlots_rest (List.cons_ne_nil _ _) h).1
  | writeConfig => exact .inl (hostSlots_rest (List.cons_ne_nil _ _) h).1
  | start => exact .inl (switchClock_rest h).1
  | stop => exact .inl (switchClock_rest h).1

theorem exec_rest_of_buffer {i : Instr} {s t : State} (hs : LinesRest s) (h : exec i s = .next t) (hframe : i ≠ .writeFrame)
    (hput : ∀ k val, i ≠ .putWord k val) (hconfig : i ≠ .writeConfig) (hstart : i ≠ .start) (hstop : i ≠ .stop) :
    LinesRest t := by
  have hwithin := exec_within linesRest_tickClosed (fun _ _ hu => hu.rest hframe hput hconfig hstart hstop) s
  rw [h] at hwithin
  exact hwithin hs

/-- Every command leaves the lines at rest that found them so (R225). -/
theorem exec_rest {i : Instr} {s t : State} (hs : LinesRest s) (h : exec i s = .next t) : LinesRest t := by
  cases i with
  | writeFrame =>
    obtain ⟨u, -, hrest⟩ := andThen_eq_next.1 h
    obtain ⟨v, hv, hlast⟩ := andThen_eq_next.1 hrest
    exact (micro_setHostOp_rest (f := fun w => w.setReady false) (fun _ hw => hw)
      (hostSlots_rest (framePlan_ne_nil _) hv).2 hlast).2
  | putWord k val => exact (hostSlots_rest (List.cons_ne_nil _ _) h).2
  | writeConfig => exact (hostSlots_rest (List.cons_ne_nil _ _) h).2
  | start => exact (switchClock_rest h).2
  | stop => exact (switchClock_rest h).2
  | drawWr | drawRd | setBright | clear | correct =>
    exact exec_rest_of_buffer hs h (by simp) (by simp) (by simp) (by simp) (by simp)

/-- Settles O52: with an empty schedule there is no TICK to collide with (`exec_within`), and nothing else stops a command. -/
theorem commandsCompleteWithoutTicks : Obligations.CommandsCompleteWithoutTicks := by
  intro i s hs
  have T : TickClosed fun s t => s.ticks = [] → t.ticks = [] :=
    { refl := fun _ h => h
      trans := fun _ _ _ h k hs => k (h hs)
      tick := fun _ _ _ hrest _ hs => absurd (hrest.symm.trans hs) (List.cons_ne_nil _ _)
      countdown := fun s hs => by rw [State.countdown_ticks, hs]; rfl
      hostOp := fun _ _ h => h }
  have hwithin := exec_within T (i := i) (fun s t hu hs => hu.input_eq.2.2.1.trans hs) s
  cases hexec : exec i s with
  | next t =>
    rw [hexec] at hwithin
    refine ⟨t, rfl, hwithin hs, fun hnone => ?_⟩
    rcases exec_hostop hexec with h | h
    · exact h
    · exact h.trans hnone
  | fault e =>
    rw [hexec] at hwithin
    obtain ⟨u⟩ := e
    obtain ⟨v, rest, hv, -, hdue, -⟩ := hwithin
    exact absurd (hdue.symm.trans (hv hs)) (List.cons_ne_nil _ _)
  | refused e =>
    rw [hexec] at hwithin
    exact hwithin.elim

/-! ### The invariant (R5, R21, R22, R25, R28, R33, R35, R58, R225) -/

/-- Buffers keep their lengths, and `F_COLLISION` its value. -/
def ShapeKept (s t : State) : Prop :=
  t.draw.length = s.draw.length ∧ t.tx.length = s.tx.length ∧
    t.fault &&& FaultCode.collision.mask = s.fault &&& FaultCode.collision.mask

theorem ShapeKept.of_eq {s t : State} (hdraw : t.draw = s.draw) (htx : t.tx = s.tx) (hfault : t.fault = s.fault) :
    ShapeKept s t := by
  rw [ShapeKept, hdraw, htx, hfault]
  exact ⟨rfl, rfl, rfl⟩

theorem or_mask_and_collision (b : BitVec 3) :
    (b ||| FaultCode.illegal.mask) &&& FaultCode.collision.mask = b &&& FaultCode.collision.mask ∧
      (b ||| FaultCode.index.mask) &&& FaultCode.collision.mask = b &&& FaultCode.collision.mask := by
  revert b
  decide

theorem shapeKept_closed : Closed ShapeKept where
  refl _ := .of_eq rfl rfl rfl
  trans _ _ _ h k := ⟨k.1.trans h.1, k.2.1.trans h.2.1, k.2.2.trans h.2.2⟩
  tick _ _ _ _ h := .of_eq (tick_keeps h).draw (tick_keeps h).tx (tick_keeps h).fault
  countdown _ := .of_eq rfl rfl rfl
  hostOp _ _ := .of_eq rfl rfl rfl
  order _ _ := .of_eq rfl rfl rfl
  pin s e := .of_eq (State.drive_draw s e.1) (State.drive_tx s e.1) (State.drive_fault s e.1)
  drive s e := .of_eq (State.drive_draw s e) (State.drive_tx s e) (State.drive_fault s e)
  ready _ _ := .of_eq rfl rfl rfl
  draw _ _ _ := ⟨Memory.write_length .., rfl, rfl⟩
  tx _ _ _ := ⟨rfl, Memory.write_length .., rfl⟩
  bright _ _ := .of_eq rfl rfl rfl
  respond _ _ := .of_eq rfl rfl rfl
  enable _ := .of_eq rfl rfl rfl
  disable _ := .of_eq rfl rfl rfl
  illegal s := ⟨rfl, rfl, (or_mask_and_collision s.fault).1⟩
  index s := ⟨rfl, rfl, (or_mask_and_collision s.fault).2⟩
  cmds _ _ _ _ := .of_eq rfl rfl rfl

/-- Between two steps no command is in progress and the lines are at rest. -/
theorem step_rest {s t : State} (hop : s.hostop = .none) (hs : LinesRest s) (h : step s = .next t) :
    t.hostop = .none ∧ LinesRest t := by
  by_cases hdue : tickDue s = true
  · obtain ⟨rest, hrest⟩ := tickDue_eq_true_iff.1 hdue
    rw [step_of_tick hrest] at h
    exact ⟨(tick_keeps h).hostop.trans hop, linesRest_tickClosed.tick s t rest hrest h hs⟩
  · have hfree : tickDue s = false := Bool.eq_false_of_not_eq_true hdue
    cases hcmds : s.cmds with
    | nil =>
      rw [step_of_idle hfree hcmds] at h
      cases h
      exact ⟨hop, hs⟩
    | cons c cs =>
      cases hdec : decode c with
      | ok i =>
        rw [step_of_decode_ok hfree hcmds hdec] at h
        exact ⟨(exec_hostop h).elim id (fun hkept => hkept.trans hop), exec_rest (s := s.setCmds cs) hs h⟩
      | error why =>
        rw [step_of_decode_error hfree hcmds hdec] at h
        have hwithin := micro_within linesRest_tickClosed (f := raise .illegal) (fun _ hu => hu) (s.setCmds cs)
        rw [illegal] at h
        rw [h] at hwithin
        exact ⟨(micro_hostop h fun _ => rfl).trans hop, hwithin hs⟩

/-- Settles O58: each conjunct is a relation every step stays within (`step_related`), but for the lines and `HOSTOP`, which
a command may move and puts back (`step_rest`). -/
theorem stepKeepsInvariant : Obligations.StepKeepsInvariant := by
  rintro s t ⟨hwf, hdraw, htx, hcfg, hop, hseq, hclk, hlat, hwire, hfault⟩ h
  obtain ⟨hpar, hcfg'⟩ := otherConfigBitsNeverChange s t h
  obtain ⟨hdraw', htx', hfault'⟩ := step_related shapeKept_closed h
  obtain ⟨⟨es, hwire', hlevels⟩, -⟩ := tracesOnlyGrow s t h
  obtain ⟨hop', hseq', hclk', hlat'⟩ := step_rest hop ⟨hseq, hclk, hlat⟩ h
  refine ⟨hpar.symm ▸ hwf, ?_, ?_, ?_, hop', hseq', hclk', hlat', ?_, hfault'.trans hfault⟩
  · rwa [hpar, Memory.wf, hdraw']
  · rwa [hpar, Memory.wf, htx']
  · rw [hpar, hcfg', hcfg]
  · rw [hwire', replay_append, hwire, hlevels]

end Sys2Proof.Machine
end

section
/-! SUPPORT. What the chip sees (R33) of one word (R153), of words in a row, of a frame (R157) and of a configuration write
(R160). -/

namespace Sys2Proof.Machine

theorem chipView_append (l : Levels) (es es' : List Event) :
    chipView l (es ++ es') = chipView l es ++ chipView (replay l es) es' := by
  induction es generalizing l with
  | nil => rfl
  | cons e es ih => rw [List.cons_append, chipView, chipView, replay, ih, List.append_assoc]

/-! ### One bit, the bits of a word, one word (R150 to R153) -/

section
variable (v : Word) (k : Nat)

/-- The size of a word: three events for each bit, the two closing ones, and one where the latch is raised. -/
theorem wordEvents_length : (wordEvents v k).length = if 1 ≤ k ∧ k ≤ 16 then 51 else 50 := by
  have hbit : ∀ t, (bitEvents v k t).length = 3 + if latchRises k t then 1 else 0 := fun t => by
    unfold bitEvents
    split <;> rfl
  rw [wordEvents, List.length_append, List.length_flatMap, List.map_congr_left fun t _ => hbit t]
  split
  case isTrue hk =>
    obtain ⟨hlow, hhigh⟩ := hk
    interval_cases k <;> rfl
  case isFalse hk =>
    have hnone : ∀ t, latchRises k t = false := fun t => by
      rw [latchRises, ← Bool.decide_and, decide_eq_false hk, Bool.false_and]
    simp [hnone, Config.wordBits]

/-- The latch is high after the first `t` bits of a word started with the latch low. -/
def latchedAfter (t : Nat) : Bool := decide (1 ≤ k ∧ k ≤ 16 ∧ 16 - k < t)

theorem latchedAfter_succ (t : Nat) : latchedAfter k (t + 1) = (latchRises k t || latchedAfter k t) := by
  rw [Bool.eq_iff_iff]
  simp only [latchedAfter, latchRises, Bool.or_eq_true, Bool.and_eq_true, decide_eq_true_eq, beq_iff_eq]
  omega

theorem replay_bitEvents (t : Nat) (l : Levels) :
    replay l (bitEvents v k t) = ⟨true, v.getLsbD (15 - t), latchRises k t || l.lat, l.gck⟩ := by
  unfold bitEvents
  cases latchRises k t <;> rfl

/-- One rising edge: the data bit, and the latch as this bit leaves it. -/
theorem chipView_bitEvents (t : Nat) (l : Levels) :
    chipView l (bitEvents v k t) = [.sample (v.getLsbD (15 - t)) (latchRises k t || l.lat)] := by
  unfold bitEvents
  cases latchRises k t <;> rfl

theorem replay_bits_lat (j : Nat) {l : Levels} (hl : l.lat = false) :
    (replay l ((List.range j).flatMap (bitEvents v k))).lat = latchedAfter k j := by
  induction j with
  | zero => simp [latchedAfter, replay, hl]
  | succ j ih => rw [List.range_succ, List.flatMap_append, replay_append, List.flatMap_singleton, replay_bitEvents, ih,
      latchedAfter_succ]

theorem chipView_bits (j : Nat) {l : Levels} (hl : l.lat = false) :
    chipView l ((List.range j).flatMap (bitEvents v k)) =
      (List.range j).map fun t => .sample (v.getLsbD (15 - t)) (latchedAfter k (t + 1)) := by
  induction j with
  | zero => rfl
  | succ j ih => rw [List.range_succ, List.flatMap_append, chipView_append, ih, List.flatMap_singleton,
      chipView_bitEvents, replay_bits_lat v k j hl, ← latchedAfter_succ, List.map_append, List.map_singleton]

/-- The bits of a word from the highest down, with the level of the latch at each. -/
def samples (latch : Nat → Bool) : List ChipEvent :=
  (List.range 16).map fun t => ChipEvent.sample (v.getLsbD (15 - t)) (latch t)

/-- What the chip sees of one word: its bits, the latch high from the `k`-th last on, then its fall. -/
def wordView : List ChipEvent :=
  samples v (fun t => decide (1 ≤ k ∧ k ≤ 16 ∧ 16 - k ≤ t)) ++ if 1 ≤ k ∧ k ≤ 16 then [ChipEvent.latchFall] else []

theorem chipView_wordEvents {l : Levels} (hl : l.lat = false) : chipView l (wordEvents v k) = wordView v k := by
  have hfall : ∀ l' : Levels, chipView l' [⟨.lat, false⟩, ⟨.clk, false⟩] = if l'.lat then [.latchFall] else [] := fun l' => by
    cases hlat : l'.lat <;> simp [chipView, chipEvents, hlat]
  have hend : latchedAfter k Config.wordBits = true ↔ 1 ≤ k ∧ k ≤ 16 := by
    rw [latchedAfter, decide_eq_true_eq, Config.wordBits]
    omega
  rw [wordEvents, chipView_append, chipView_bits v k _ hl, hfall, replay_bits_lat v k _ hl, wordView]
  simp only [hend]
  simp only [latchedAfter, Nat.lt_succ_iff]
  rfl

end

/-- Settles O34. -/
theorem wordChipView : Obligations.WordChipView :=
  fun v k _ hl => ⟨wordEvents_length v k, chipView_wordEvents v k hl⟩

/-! ### Words in a row -/

/-- Each word leaves the latch low (R225), so the chip sees the words one after the other. -/
theorem chipView_wordsEvents (ws : List (Word × Nat)) {l : Levels} (hl : l.lat = false) :
    chipView l (wordsEvents ws) = ws.flatMap fun w => wordView w.1 w.2 := by
  induction ws generalizing l with
  | nil => rfl
  | cons w ws ih =>
    rw [wordsEvents_cons, chipView_append, chipView_wordEvents _ _ hl, ih (by rw [replay_wordEvents]), List.flatMap_cons]

theorem wordsEvents_length (ws : List (Word × Nat)) :
    (wordsEvents ws).length = (ws.map fun w => if 1 ≤ w.2 ∧ w.2 ≤ 16 then 51 else 50).sum := by
  rw [wordsEvents, List.length_flatMap]
  simp only [wordEvents_length]

/-! ### The frame (R156, R157) -/

theorem frameEvents_pos (p : Config.Params) (tx : Memory) : 0 < (frameEvents p tx).length := by
  simp [frameEvents, frameWords, wordsEvents, wordEvents]

/-- With `LC_DATA = 0` every word but the last has 50 events. -/
theorem frameEvents_length {p : Config.Params} (hlc : p.lcData = 0) {tx : Memory} (htx : tx.length = p.n) :
    (frameEvents p tx).length = 50 * (padCount p.n + p.n) + 51 := by
  simp [frameEvents, wordsEvents_length, frameWords, hlc, htx, Config.lcFrame, Function.comp_def]
  ring

/-- A word without latch clocks shows its bits with the latch low. -/
theorem wordView_zero_latch (v : Word) : wordView v 0 = samples v fun _ => false := by
  simp [wordView]

theorem wordView_padding : wordView 0#16 0 = List.replicate 16 (.sample false false) := by decide

theorem wordView_endWord :
    wordView 0#16 Config.lcFrame = (samples 0#16 fun b => decide (13 ≤ b)) ++ [ChipEvent.latchFall] := by decide

theorem chipView_frameEvents {p : Config.Params} (hlc : p.lcData = 0) (tx : Memory) {l : Levels} (hl : l.lat = false) :
    chipView l (frameEvents p tx) =
      List.replicate (16 * padCount p.n) (.sample false false) ++ (tx.reverse.flatMap fun v => samples v fun _ => false)
        ++ (samples 0#16 fun b => decide (13 ≤ b)) ++ [ChipEvent.latchFall] := by
  have hpad : (List.replicate (padCount p.n) (0#16, 0)).flatMap (fun w : Word × Nat => wordView w.1 w.2) =
      List.replicate (16 * padCount p.n) (.sample false false) := by
    rw [List.flatMap_replicate, wordView_padding, List.flatten_replicate_replicate, Nat.mul_comm]
  rw [frameEvents, chipView_wordsEvents _ hl, frameWords, hlc, List.flatMap_append, List.flatMap_append, hpad,
    List.flatMap_map, List.flatMap_singleton, wordView_endWord]
  simp only [wordView_zero_latch, List.append_assoc]

/-- Settles O36: the frame a TICK sends (`tick_of_free`), its size and its words as the chip sees them. -/
theorem frameChipView : Obligations.FrameChipView := by
  intro s hfree hlc htx hlat
  refine ⟨s.sendFrame s.tx, frameEvents s.par s.tx, tick_of_free hfree htx, rfl, frameEvents_length hlc htx, ?_⟩
  rw [chipView_frameEvents hlc s.tx hlat]
  simp only [samples, BitVec.getLsbD_zero]

/-! ### The configuration write (R160) -/

theorem configEvents_length (cfg : Word) : (wordsEvents (configWords cfg)).length = 102 := by
  rw [wordsEvents_length]
  rfl

theorem chipView_configEvents (cfg : Word) {l : Levels} (hl : l.lat = false) :
    chipView l (wordsEvents (configWords cfg)) =
      (samples 0#16 fun t => decide (1 ≤ t)) ++ [ChipEvent.latchFall] ++ (samples cfg fun t => decide (5 ≤ t))
        ++ [ChipEvent.latchFall] := by
  have hcommit : wordView cfg 11 = (samples cfg fun t => decide (5 ≤ t)) ++ [ChipEvent.latchFall] := by
    have hhigh : ∀ t, (1 ≤ 11 ∧ 11 ≤ 16 ∧ 16 - 11 ≤ t) ↔ 5 ≤ t := by omega
    simp only [wordView, hhigh]
    rfl
  have hopen : wordView 0#16 15 = (samples 0#16 fun t => decide (1 ≤ t)) ++ [ChipEvent.latchFall] := by decide
  rw [chipView_wordsEvents _ hl, configWords, List.flatMap_cons, List.flatMap_singleton, hopen, hcommit]
  simp only [List.append_assoc]

end Sys2Proof.Machine
end

section
/-! SUPPORT. The serial commands (R150, R158 to R163): PUT_WORD, WRITE_CONFIG, START and STOP that no TICK divides, and
WRITE_FRAME under every schedule that lets it complete. -/

namespace Sys2Proof.Machine

/-! ### PUT_WORD and WRITE_CONFIG -/

theorem slotWords_rawPlan (k : Nat) (val : Word) (s : State) :
    wordsEvents (slotWords s (rawPlan k val)) = wordEvents val k := by
  simp [slotWords, rawPlan, Slot.value, wordsEvents]

theorem slotWords_configPlan (s : State) : slotWords s configPlan = configWords s.cfg := rfl

theorem wordsEvents_configWords (cfg : Word) :
    wordsEvents (configWords cfg) = wordEvents 0#16 15 ++ wordEvents cfg 11 := by
  simp [wordsEvents, configWords]

/-- `s` after these words were sent whole, the last one with `d` as its bit 0 (R150, R225). -/
def State.sendWords (s : State) (ws : List (Word × Nat)) (d : Bool) : State :=
  { s with wire := s.wire ++ wordsEvents ws, clk := false, dat := d, lat := false, seq := .idle }

theorem sendSlots_rawPlan (k : Nat) (val : Word) (s : State) :
    sendSlots (rawPlan k val) s = s.sendWords [(val, k)] (val.getLsbD 0) := sendSlots_spec _ s (List.cons_ne_nil _ _)

theorem sendSlots_configPlan (s : State) :
    sendSlots configPlan s = s.sendWords (configWords s.cfg) (s.cfg.getLsbD 0) := sendSlots_spec _ s (List.cons_ne_nil _ _)

theorem sendSlots_framePlan {s : State} (htx : s.tx.length = s.par.n) :
    sendSlots (framePlan s.par) s = s.sendWords (frameWords s.par s.tx) false := by
  rw [sendSlots_spec _ s (framePlan_ne_nil _), slotWords_framePlan htx, State.sendWords]
  simp [framePlan, Slot.value]

/-- Settles O37: the plan of PUT_WORD has one word. -/
theorem putWordSendsOneWord : Obligations.PutWordSendsOneWord := by
  intro s k val hquiet
  have hsend := hostSlots_of_quiet (h := .none) (rawPlan k val) (List.cons_ne_nil _ _)
    (by rwa [slotWords_rawPlan] : s.quiet (wordsEvents (slotWords s (rawPlan k val))).length = true)
  have hword : wordsEvents [(val, k)] = wordEvents val k := by simp [wordsEvents]
  rw [sendSlots_rawPlan, slotWords_rawPlan, State.sendWords, hword] at hsend
  exact hsend

/-- WRITE_CONFIG's words that no TICK divides. -/
theorem writeConfig_of_quiet (h : HostOp) {s : State} (hquiet : s.quiet 102 = true) :
    writeConfig h s = .next
      (((s.sendWords (configWords s.cfg) (s.cfg.getLsbD 0)).setHostOp h).setTicks (elapse 102 s.ticks)) := by
  have hsend := hostSlots_of_quiet (h := h) configPlan (List.cons_ne_nil _ _) (s := s)
    (by rwa [slotWords_configPlan, configEvents_length])
  rw [sendSlots_configPlan, slotWords_configPlan, configEvents_length] at hsend
  exact hsend

/-- Settles O38: the words as the chip sees them, and the whole effect. -/
theorem writeConfigSendsTwoWords : Obligations.WriteConfigSendsTwoWords := by
  refine ⟨fun cfg l hl => ?chip, fun s hquiet => ?effect⟩
  case chip =>
    rw [← wordsEvents_configWords, chipView_configEvents cfg hl]
    simp only [samples, BitVec.getLsbD_zero]
  case effect =>
    have hsend := writeConfig_of_quiet .none hquiet
    rw [State.sendWords, wordsEvents_configWords, ← List.append_assoc] at hsend
    exact hsend

/-! ### START and STOP -/

/-- START and STOP that no TICK divides. -/
theorem switchClock_of_quiet (newCfg : Config.Params → Word → Word) (v : Bool) {s : State} (hquiet : s.quiet 104 = true) :
    switchClock newCfg v s = .next
      { s with
        cfg := newCfg s.par s.cfg
        wire := s.wire ++ wordEvents 0#16 15 ++ wordEvents (newCfg s.par s.cfg) 11 ++ [⟨.gck, v⟩]
        clk := false
        dat := (newCfg s.par s.cfg).getLsbD 0
        lat := false
        gck := v
        seq := .idle
        hostop := .none
        ticks := elapse 104 s.ticks } := by
  have hquiet1 := quiet_mono hquiet (by decide : 1 ≤ 104)
  have hquiet103 : (((s.setCfg (newCfg s.par s.cfg)).setHostOp .between).countdown).quiet 103 = true :=
    quiet_of_ticks_elapse (a := 1) hquiet rfl
  rw [switchClock, micro_of_quiet hquiet1, andThen_next, writeConfig_of_quiet _ (quiet_mono hquiet103 (by decide)),
    andThen_next, micro_of_quiet (quiet_of_ticks_elapse (a := 102) hquiet103 rfl), State.sendWords, wordsEvents_configWords]
  simp [State.drive, State.setHostOp, State.countdown, State.setTicks, elapse_elapse, State.setCfg]

/-- Settles O39. -/
theorem startEnablesChip : Obligations.StartEnablesChip :=
  fun _ hquiet => switchClock_of_quiet cfgEnabled true hquiet

/-- Settles O40. -/
theorem stopDisablesChip : Obligations.StopDisablesChip :=
  fun _ hquiet => switchClock_of_quiet cfgDisabled false hquiet

/-! ### WRITE_FRAME -/

/-- A schedule whose due TICKs are served first and that then has none for `m` micro-steps. -/
def ClearAhead (m : Nat) (ts : List Nat) : Prop := ∀ k rest, ts.dropWhile (fun k => k == 0) = k :: rest → m ≤ k

theorem quiet_iff_clearAhead {s : State} {m : Nat} {ts : List Nat} :
    (s.setTicks (ts.dropWhile fun k => k == 0)).quiet m = true ↔ ClearAhead m ts := by
  unfold State.quiet ClearAhead
  cases ts.dropWhile fun k => k == 0 <;> simp

theorem clearAhead_iff_elapse {m : Nat} {ts : List Nat} (hpos : 1 ≤ m) (h : ClearAhead m ts) :
    ticksWithin m ts = ticksWithin 1 ts ∧ ticksAfter m ts = elapse m (ts.dropWhile fun k => k == 0) := by
  induction ts with
  | nil => exact ⟨rfl, rfl⟩
  | cons k rest ih =>
    cases k with
    | zero =>
      obtain ⟨hwithin, hafter⟩ := ih h
      have hlt : 0 < m := hpos
      simp only [ticksWithin, ticksAfter, hlt, Nat.sub_zero, if_true, Nat.zero_lt_one]
      exact ⟨by rw [hwithin], by simpa using hafter⟩
    | succ k =>
      have hle : m ≤ k + 1 := h (k + 1) rest (by simp)
      simp [ticksWithin, ticksAfter, elapse, Nat.not_lt.2 hle]

/-- TRANSMIT in the host context under a schedule with no TICK inside its serial window. -/
theorem hostSlots_framePlan_of_free (h : HostOp) {t : State} (hfree : t.hostop ≠ .serial) (htx : t.tx.length = t.par.n)
    (hclear : ClearAhead (frameEvents t.par t.tx).length t.ticks) :
    hostSlots h (framePlan t.par) t =
      .next ((((t.sendFrames (List.replicate (ticksWithin 1 t.ticks) t.tx)).sendWords (frameWords t.par t.tx) false).setHostOp
        h).setTicks (ticksAfter (frameEvents t.par t.tx).length t.ticks)) := by
  have hwords : wordsEvents (slotWords t (framePlan t.par)) = frameEvents t.par t.tx := by
    rw [slotWords_framePlan htx, frameEvents]
  have hslots := sendSlots_framePlan (s := t.sendFrames (List.replicate (ticksWithin 1 t.ticks) t.tx)) (by simpa using htx)
  rw [State.sendFrames_par, State.sendFrames_tx] at hslots
  rw [hostSlots_of_free (framePlan_ne_nil _) hfree htx (by rw [hwords]; exact quiet_iff_clearAhead.2 hclear), hslots, hwords,
    (clearAhead_iff_elapse (frameEvents_pos _ _) hclear).2]

/-- The transmit phase of WRITE_FRAME and its final `READY <- 0`: the frame, with the frames of the TICKs due before it and
of those due after it. -/
theorem transmitPhase_eq {t : State} (hfree : t.hostop ≠ .serial) (htx : t.tx.length = t.par.n)
    (hclear : ClearAhead (frameEvents t.par t.tx).length t.ticks) :
    andThen (hostSlots .between (framePlan t.par) t) (micro (fun u => (u.setReady false).setHostOp .none)) =
      .next
        { t with
          wire := t.wire ++ (List.replicate (ticksWithin 1 t.ticks) t.tx).flatMap (frameEvents t.par)
            ++ frameEvents t.par t.tx
            ++ (List.replicate (ticksWithin 1 (ticksAfter (frameEvents t.par t.tx).length t.ticks)) t.tx).flatMap
              (frameEvents t.par)
          ready := false
          clk := false
          dat := false
          lat := false
          seq := .idle
          hostop := .none
          frame := t.frame + BitVec.ofNat 32 (ticksWithin ((frameEvents t.par t.tx).length + 1) t.ticks)
          ticks := ticksAfter ((frameEvents t.par t.tx).length + 1) t.ticks } := by
  have hcount : ticksWithin ((frameEvents t.par t.tx).length + 1) t.ticks =
      ticksWithin 1 t.ticks + ticksWithin 1 (ticksAfter (frameEvents t.par t.tx).length t.ticks) := by
    rw [ticksWithin_add, (clearAhead_iff_elapse (frameEvents_pos _ _) hclear).1]
  rw [hostSlots_framePlan_of_free .between hfree htx hclear, andThen_next,
    micro_of_free (fun _ _ => rfl) (by simp) (by simpa [State.sendWords] using htx), hcount, ticksAfter_add]
  simp [State.sendFrames_eq, State.sendWords, State.setReady, State.setHostOp, State.setTicks, frameEvents, BitVec.ofNat_add,
    BitVec.add_assoc]

/-- The frames that TICKs send before the first pin event of a WRITE_FRAME. -/
def earlyFrames (s : State) : List Memory := framesSent (passSnapshots s (s.par.n + 1) ++ [corrected s]) s.ticks

/-- The micro-steps of a WRITE_FRAME up to its last pin event. -/
def writeFrameSent (s : State) : Nat := s.par.n + 1 + (frameEvents s.par (corrected s)).length

/-- How many TICKs come after the last pin event of a WRITE_FRAME. -/
def lateCount (s : State) : Nat := ticksWithin 1 (ticksAfter (writeFrameSent s) s.ticks)

/-- No TICK falls strictly inside the serial window of a WRITE_FRAME. -/
def WindowClear (s : State) : Prop :=
  ClearAhead (frameEvents s.par (corrected s)).length (ticksAfter (s.par.n + 1) s.ticks)

theorem earlyFrames_eq (s : State) :
    earlyFrames s = passFrames s ++
      List.replicate (ticksWithin 1 (ticksAfter (s.par.n + 1) s.ticks)) (corrected s) := by
  rw [earlyFrames, framesSent_append, passFrames, framesSent, framesSent, List.append_nil]
  simp [passSnapshots]

/-- WRITE_FRAME under a schedule with no TICK inside its serial window. -/
theorem exec_writeFrame_eq {s : State} (hbuf : s.buffersOk = true) (hclear : WindowClear s) :
    exec .writeFrame s = .next
      { s with
        order := s.order.drop s.par.n
        tx := corrected s
        wire := s.wire ++ (earlyFrames s).flatMap (frameEvents s.par) ++ frameEvents s.par (corrected s)
          ++ (List.replicate (lateCount s) (corrected s)).flatMap (frameEvents s.par)
        ready := false
        clk := false
        dat := false
        lat := false
        seq := .idle
        hostop := .none
        frame := s.frame + BitVec.ofNat 32 (ticksWithin (writeFrameSent s + 1) s.ticks)
        ticks := ticksAfter (writeFrameSent s + 1) s.ticks } := by
  obtain ⟨hdraw, -⟩ := State.buffersOk_lengths hbuf
  have hphase := transmitPhase_eq (t := (((((s.setOrder (s.order.drop s.par.n)).setTx (corrected s)).sendFrames
    (passFrames s)).setReady true).setHostOp .between).setTicks (ticksAfter (s.par.n + 1) s.ticks)) (by simp)
    (by simp [corrected, hdraw]) (by simpa [WindowClear] using hclear)
  have hwithin : ticksWithin (writeFrameSent s + 1) s.ticks = ticksWithin (s.par.n + 1) s.ticks +
      ticksWithin ((frameEvents s.par (corrected s)).length + 1) (ticksAfter (s.par.n + 1) s.ticks) := by
    rw [writeFrameSent, Nat.add_assoc _ _ 1, ticksWithin_add]
  have hafter : ticksAfter (writeFrameSent s + 1) s.ticks =
      ticksAfter ((frameEvents s.par (corrected s)).length + 1) (ticksAfter (s.par.n + 1) s.ticks) := by
    rw [writeFrameSent, Nat.add_assoc _ _ 1, ticksAfter_add]
  have hlate : lateCount s =
      ticksWithin 1 (ticksAfter (frameEvents s.par (corrected s)).length (ticksAfter (s.par.n + 1) s.ticks)) := by
    rw [lateCount, writeFrameSent, ticksAfter_add]
  rw [exec, execWriteFrame, correctionPass_eq hbuf, andThen_next, hphase, earlyFrames_eq, hwithin, hafter, hlate]
  simp [State.sendFrames_eq, State.setReady, State.setHostOp, State.setTicks, State.setTx, State.setOrder, passFrames_length,
    BitVec.ofNat_add, BitVec.add_assoc]

theorem windowClear_of_exec_next {s t : State} (hbuf : s.buffersOk = true) (h : exec .writeFrame s = .next t) :
    WindowClear s := by
  obtain ⟨hdraw, -⟩ := State.buffersOk_lengths hbuf
  rw [exec, execWriteFrame, correctionPass_eq hbuf, andThen_next] at h
  obtain ⟨u, hu, -⟩ := andThen_eq_next.1 h
  have hquiet := quiet_of_hostSlots_next (framePlan_ne_nil _) hu
  rw [slotWords_framePlan (by simp [corrected, hdraw])] at hquiet
  simpa [WindowClear, frameEvents] using quiet_iff_clearAhead.1 hquiet

theorem earlyFrames_length (s : State) : (earlyFrames s).length = ticksWithin (s.par.n + 2) s.ticks := by
  rw [earlyFrames, framesSent_length]
  simp [passSnapshots]

/-- Early and late TICKs are all the TICKs of a WRITE_FRAME. -/
theorem earlyFrames_length_add_lateCount {s : State} (hclear : WindowClear s) :
    (earlyFrames s).length + lateCount s = ticksWithin (writeFrameSent s + 1) s.ticks := by
  rw [ticksWithin_add, lateCount, writeFrameSent, ticksWithin_add,
    (clearAhead_iff_elapse (frameEvents_pos _ _) hclear).1, earlyFrames_length, ticksWithin_add (s.par.n + 1) 1]

theorem isTorn_corrected {s : State} (hbuf : s.buffersOk = true) : IsTorn s s.pixelAt (corrected s) := by
  obtain ⟨hdraw, -⟩ := State.buffersOk_lengths hbuf
  exact ⟨by rw [corrected, List.length_map, hdraw], fun i hi => .inr (corrected_read hdraw hi)⟩

theorem isTorn_of_mem_earlyFrames {s : State} (hbuf : s.buffersOk = true) {m : Memory} (h : m ∈ earlyFrames s) :
    IsTorn s s.pixelAt m := by
  rw [earlyFrames_eq] at h
  rcases List.mem_append.1 h with h | h
  · exact isTorn_of_mem_passFrames (State.buffersOk_lengths hbuf).2 h
  · exact (List.eq_of_mem_replicate h) ▸ isTorn_corrected hbuf

/-- Settles O17: the frames of the TICKs a command meets, each of the buffer as the command had left it. -/
theorem tornFrameWords : Obligations.TornFrameWords := by
  refine ⟨fun s t hbuf h => ?correct, fun s t hbuf h => ?clear, fun s t hbuf h => ?writeFrame⟩
  case correct =>
    rw [exec_correct_eq hbuf] at h
    cases h
    exact ⟨passFrames s, passFrames_length s, by simp,
      fun m hm => isTorn_of_mem_passFrames (State.buffersOk_lengths hbuf).2 hm⟩
  case clear =>
    rw [exec_clear_eq hbuf] at h
    cases h
    exact ⟨clearFrames s, clearFrames_length s, by simp,
      fun m hm => isTorn_of_mem_clearFrames (State.buffersOk_lengths hbuf).2 hm⟩
  case writeFrame =>
    have hclear := windowClear_of_exec_next hbuf h
    rw [exec_writeFrame_eq hbuf hclear] at h
    cases h
    exact ⟨earlyFrames s, lateCount s, earlyFrames_length s, earlyFrames_length_add_lateCount hclear, rfl,
      fun m hm => isTorn_of_mem_earlyFrames hbuf hm⟩

/-! ### WRITE_FRAME with no TICK, and with one outside its window -/

/-- A stretch without TICKs is free of them to its end. -/
theorem clearAhead_of_quiet {s : State} {a b : Nat} (h : s.quiet (a + b) = true) : ClearAhead b (ticksAfter a s.ticks) := by
  have hquiet := quiet_mono h (Nat.le_add_right a b)
  intro k rest hk
  rw [(ticks_of_quiet hquiet).2] at hk
  unfold State.quiet at h
  cases hticks : s.ticks with
  | nil => simp [hticks, elapse] at hk
  | cons j more =>
    rw [hticks] at h hk
    have hle : a + b ≤ j := of_decide_eq_true h
    rw [elapse] at hk
    rcases Nat.eq_zero_or_pos (j - a) with hzero | hpos
    · omega
    · rw [List.dropWhile_cons_of_neg (by simpa using hpos.ne')] at hk
      injection hk
      omega

/-- Settles O41: no TICK, so no frame but its own. -/
theorem writeFrameCorrectsAndSends : Obligations.WriteFrameCorrectsAndSends := by
  intro s hbuf hquiet
  have hclear : WindowClear s := clearAhead_of_quiet (quiet_mono hquiet (Nat.le_succ _))
  obtain ⟨hnone, hticks⟩ := ticks_of_quiet hquiet
  have hsum := earlyFrames_length_add_lateCount hclear
  rw [writeFrameSent, hnone] at hsum
  have hearly : earlyFrames s = [] := List.length_eq_zero_iff.1 (by omega)
  have hlate : lateCount s = 0 := by omega
  rw [exec_writeFrame_eq hbuf hclear, hearly, hlate, writeFrameSent, hnone, hticks]
  simp [corrected]

/-- One TICK up to the first pin event, or after the last. -/
theorem windowClear_of_singleton {s : State} {m : Nat} (hticks : s.ticks = [m])
    (hm : m ≤ s.par.n + 1 ∨ writeFrameSent s ≤ m) : WindowClear s := by
  intro k rest hk
  rw [hticks] at hk
  unfold writeFrameSent at hm
  by_cases hlt : m < s.par.n + 1
  · simp [ticksAfter, hlt] at hk
  · rw [ticksAfter, if_neg hlt] at hk
    rcases Nat.eq_zero_or_pos (m - (s.par.n + 1)) with hzero | hpos
    · simp [hzero] at hk
    · rw [List.dropWhile_cons_of_neg (by simpa using hpos.ne')] at hk
      injection hk
      omega

/-- Settles O48: the TICK is early, and sends old and new elements, or late, and sends the corrected frame. -/
theorem tickOutsideWriteFrameWindow : Obligations.TickOutsideWriteFrameWindow := by
  intro s m hbuf hticks hm
  obtain ⟨hdraw, -⟩ := State.buffersOk_lengths hbuf
  have hclear : WindowClear s := windowClear_of_singleton hticks (hm.imp_right fun h => h.ge)
  have hlen := earlyFrames_length s
  have hsum := earlyFrames_length_add_lateCount hclear
  have hlt : m < writeFrameSent s + 1 := by
    have hpos := frameEvents_pos s.par (corrected s)
    unfold writeFrameSent
    omega
  have hone : ticksWithin (writeFrameSent s + 1) s.ticks = 1 := by simp [hticks, ticksWithin, hlt]
  have hafter : ticksAfter (writeFrameSent s + 1) s.ticks = [] := by simp [hticks, ticksAfter, hlt]
  rw [hone] at hsum
  have hframe : ∃ torn, IsTorn s s.pixelAt torn ∧
      (earlyFrames s).flatMap (frameEvents s.par) ++ frameEvents s.par (corrected s)
        ++ (List.replicate (lateCount s) (corrected s)).flatMap (frameEvents s.par) =
      frameEvents s.par torn ++ frameEvents s.par (corrected s) := by
    cases hearly : earlyFrames s with
    | nil =>
      have hlate : lateCount s = 1 := by simpa [hearly] using hsum
      exact ⟨corrected s, isTorn_corrected hbuf, by simp [hlate]⟩
    | cons torn more =>
      rw [hearly, List.length_cons] at hsum
      have hmore : more = [] := List.length_eq_zero_iff.1 (by omega)
      have hlate : lateCount s = 0 := by omega
      have htorn : torn ∈ earlyFrames s := by simp [hearly]
      exact ⟨torn, isTorn_of_mem_earlyFrames hbuf htorn, by simp [hlate, hmore]⟩
  obtain ⟨torn, ⟨htornLen, htornRead⟩, hwire⟩ := hframe
  refine ⟨_, torn, exec_writeFrame_eq hbuf hclear, rfl, rfl, rfl, rfl, rfl, rfl, rfl, ?_, rfl, hafter, htornLen, ?_, ?_⟩
  · rw [hone]
    rfl
  · intro i hi
    rw [corrected_read hdraw hi]
    exact htornRead i hi
  · simpa using hwire

/-! ### Every torn mixture (R220) -/

/-- An order that visits the given elements first. -/
theorem exists_order_take {α : Type} [DecidableEq α] {xs done : List α} (hxs : xs.Nodup) (hdone : done.Nodup)
    (hsub : ∀ x ∈ done, x ∈ xs) : ∃ order, (arrange order xs).take done.length = done ∧ done.length ≤ xs.length := by
  obtain ⟨order, rest, horder⟩ := exists_arrange_eq_append hxs hdone hsub
  have hlen := congrArg List.length horder
  rw [arrange_length, List.length_append] at hlen
  exact ⟨order, by rw [horder, List.take_left], by omega⟩

/-- A TICK after the pixels of `done`, in an order that visits them first. -/
theorem exists_order_passFrames {s : State} {done : List Nat} (htx : s.tx.length = s.par.n) (hnodup : done.Nodup)
    (hlt : ∀ i ∈ done, i < s.par.n) :
    ∃ order, done.length ≤ s.par.n ∧ passFrames ((s.setOrder order).setTicks [done.length]) =
      [(List.range s.par.n).map fun i => if i ∈ done then pixel s.par (s.draw.read i) s.bright else s.tx.read i] := by
  obtain ⟨order, htake, hle⟩ := exists_order_take List.nodup_range hnodup fun i hi => List.mem_range.2 (hlt i hi)
  rw [List.length_range] at hle
  refine ⟨order, hle, ?_⟩
  rw [passFrames_singleton (s := (s.setOrder order).setTicks [done.length]) hle rfl]
  simp only [State.setTicks_order, State.setOrder_order, State.setTicks_par, State.setOrder_par, State.setTicks_tx,
    State.setOrder_tx, htake, Memory.patch, htx]
  rfl

/-- The same for the elements CLEAR writes. -/
theorem exists_order_clearFrames {s : State} {done : List (Buffer × Nat)} (htx : s.tx.length = s.par.n)
    (hnodup : done.Nodup) (hlt : ∀ x ∈ done, x.2 < s.par.n) (hnotAll : done.length < 2 * s.par.n) :
    ∃ order, clearFrames ((s.setOrder order).setTicks [done.length]) =
      [(List.range s.par.n).map fun i => if (Buffer.tx, i) ∈ done then 0#16 else s.tx.read i] := by
  obtain ⟨order, htake, -⟩ := exists_order_take (clearTargets_nodup s.par.n) hnodup fun x hx => mem_clearTargets.2 (hlt x hx)
  refine ⟨order, ?_⟩
  rw [clearFrames_singleton (s := (s.setOrder order).setTicks [done.length]) hnotAll rfl]
  simp only [State.setTicks_order, State.setOrder_order, State.setTicks_par, State.setOrder_par, State.setTicks_tx,
    State.setOrder_tx, htake, Memory.patch, htx, mem_targetsOf]

/-- Settles O18: the order that visits the given elements first, and the TICK right after them. -/
theorem everyTornMixtureReachable : Obligations.EveryTornMixtureReachable := by
  refine ⟨fun s done hbuf hnodup hlt => ?correct, fun s done hbuf hnodup hlt => ?writeFrame,
    fun s done hbuf hnodup hlt hnotAll => ?clear⟩
  all_goals obtain ⟨-, htx⟩ := State.buffersOk_lengths hbuf
  case correct =>
    obtain ⟨order, -, hframes⟩ := exists_order_passFrames htx hnodup hlt
    refine ⟨order, _, exec_correct_eq (s := (s.setOrder order).setTicks [done.length]) hbuf, ?_⟩
    rw [hframes]
    simp
  case writeFrame =>
    obtain ⟨order, hle, hframes⟩ := exists_order_passFrames htx hnodup hlt
    have hclear := windowClear_of_singleton (s := (s.setOrder order).setTicks [done.length]) rfl (.inl (Nat.le_succ_of_le hle))
    have hspent : ∀ m, s.par.n < m → ticksAfter m [done.length] = [] := fun m hm => by
      rw [ticksAfter, if_pos (by omega), ticksAfter]
    have hearly : earlyFrames ((s.setOrder order).setTicks [done.length]) =
        passFrames ((s.setOrder order).setTicks [done.length]) := by
      rw [earlyFrames_eq, State.setTicks_ticks, State.setTicks_par, State.setOrder_par, hspent _ (Nat.lt_succ_self _)]
      simp [ticksWithin]
    have hlate : lateCount ((s.setOrder order).setTicks [done.length]) = 0 := by
      rw [lateCount, State.setTicks_ticks, hspent _ (by simp [writeFrameSent]; omega)]
      rfl
    refine ⟨order, _, exec_writeFrame_eq (s := (s.setOrder order).setTicks [done.length]) hbuf hclear, ?_⟩
    have hcorrected : corrected ((s.setOrder order).setTicks [done.length]) = corrected s := rfl
    rw [hearly, hframes, hlate, hcorrected]
    simp
  case clear =>
    obtain ⟨order, hframes⟩ := exists_order_clearFrames htx hnodup hlt hnotAll
    refine ⟨order, _, exec_clear_eq (s := (s.setOrder order).setTicks [done.length]) hbuf, ?_⟩
    rw [hframes]
    simp

end Sys2Proof.Machine
end

section
/-! SUPPORT. TICKs inside the serial commands: the collision (R166, R187) and the cursor it shows (R28), and the ordinary
TICKs of START and STOP (R162, R163). -/

namespace Sys2Proof.Machine

/-! ### The cursor counts clock rising edges (R28) -/

/-- `SEQ` when an operation has sent `edges` clock rising edges: 16 to each word, IDLE after the last. -/
def planCursor (sls : List Slot) (edges : Nat) : Cursor :=
  match sls[edges / 16]? with
  | some sl => ⟨sl.phase, sl.w, edges % 16⟩
  | none => .idle

theorem planCursor_zero (sls : List Slot) : planCursor sls 0 = cursorOf sls := by
  cases sls <;> rfl

theorem planCursor_cons_of_lt (sl : Slot) (rest : List Slot) {edges : Nat} (h : edges < 16) :
    planCursor (sl :: rest) edges = ⟨sl.phase, sl.w, edges⟩ := by
  simp [planCursor, Nat.div_eq_of_lt h, Nat.mod_eq_of_lt h]

theorem planCursor_cons_add (sl : Slot) (rest : List Slot) (edges : Nat) :
    planCursor (sl :: rest) (16 + edges) = planCursor rest edges := by
  simp [planCursor, Nat.add_comm 16]

theorem clockEdges_append (es es' : List Event) : clockEdges (es ++ es') = clockEdges es + clockEdges es' :=
  List.count_append

/-- Each event comes with the cursor `f` gives for the clock rising edges driven so far, `n` of them before the row. -/
def CursorsCount (f : Nat → Cursor) (n : Nat) (es : List (Event × Cursor)) : Prop :=
  match es with
  | [] => True
  | e :: rest => e.2 = f (n + clockEdges [e.1]) ∧ CursorsCount f (n + clockEdges [e.1]) rest

theorem CursorsCount.append {f : Nat → Cursor} {n : Nat} {es es' : List (Event × Cursor)} (h : CursorsCount f n es)
    (h' : CursorsCount f (n + clockEdges (es.map Prod.fst)) es') : CursorsCount f n (es ++ es') := by
  induction es generalizing n with
  | nil => exact h'
  | cons e es ih =>
    obtain ⟨he, hes⟩ := h
    refine ⟨he, ih hes ?_⟩
    rwa [List.map_cons, ← List.singleton_append, clockEdges_append, ← Nat.add_assoc] at h'

theorem CursorsCount.take {f : Nat → Cursor} {n : Nat} {es : List (Event × Cursor)} (h : CursorsCount f n es) (m : Nat) :
    CursorsCount f n (es.take m) := by
  induction es generalizing n m with
  | nil => simpa using h
  | cons e es ih =>
    cases m with
    | zero => trivial
    | succ m => exact ⟨h.1, ih h.2 m⟩

/-- The cursor a counted row leaves. -/
theorem CursorsCount.getLast {f : Nat → Cursor} {n : Nat} {es : List (Event × Cursor)} (h : CursorsCount f n es)
    (hne : es ≠ []) (c : Cursor) :
    ((es.map Prod.snd).getLast?).getD c = f (n + clockEdges (es.map Prod.fst)) := by
  induction es generalizing n c with
  | nil => exact absurd rfl hne
  | cons e es ih =>
    obtain ⟨he, hes⟩ := h
    rw [List.map_cons, List.map_cons, List.getLast?_cons, ← List.singleton_append, clockEdges_append, ← Nat.add_assoc]
    cases es with
    | nil => simp [he, clockEdges]
    | cons e' es => simpa using ih hes (List.cons_ne_nil _ _) e.2

theorem clockEdges_bitEvents (v : Word) (k t : Nat) : clockEdges (bitEvents v k t) = 1 := by
  unfold bitEvents
  cases latchRises k t <;> simp [clockEdges]

/-- The steps of one bit, as `wordSteps` has them. -/
def bitSteps (phase : Phase) (w : Nat) (nxt : Cursor) (v : Word) (k t : Nat) : List (Event × Cursor) :=
  (bitEvents v k t).map fun e =>
    (e, if e = ⟨.clk, true⟩ then (if t = 15 then nxt else ⟨phase, w, t + 1⟩) else ⟨phase, w, t⟩)

theorem wordSteps_eq_bitSteps (phase : Phase) (w : Nat) (nxt : Cursor) (v : Word) (k : Nat) :
    wordSteps phase w nxt v k =
      (List.range 16).flatMap (bitSteps phase w nxt v k) ++ [(⟨.lat, false⟩, nxt), (⟨.clk, false⟩, nxt)] := rfl

section
variable {f : Nat → Cursor} {n : Nat} {phase : Phase} {w : Nat} {nxt : Cursor}
  (hbits : ∀ e < 16, f (n + e) = ⟨phase, w, e⟩) (hnext : f (n + 16) = nxt) (v : Word) (k : Nat)
include hbits hnext

theorem cursorsCount_bitSteps {t : Nat} (ht : t < 16) : CursorsCount f (n + t) (bitSteps phase w nxt v k t) := by
  have hold := hbits t ht
  have hnew : f (n + t + 1) = if t = 15 then nxt else ⟨phase, w, t + 1⟩ := by
    split
    case isTrue h => rw [h]; exact hnext
    case isFalse h => exact hbits (t + 1) (by omega)
  unfold bitSteps bitEvents
  cases latchRises k t <;> simp [CursorsCount, clockEdges, hold, hnew]

theorem cursorsCount_bits {j : Nat} (hj : j ≤ 16) :
    CursorsCount f n ((List.range j).flatMap (bitSteps phase w nxt v k)) ∧
      clockEdges (((List.range j).flatMap (bitSteps phase w nxt v k)).map Prod.fst) = j := by
  induction j with
  | zero => exact ⟨trivial, rfl⟩
  | succ j ih =>
    obtain ⟨hcount, hedges⟩ := ih (Nat.le_of_succ_le hj)
    have hbit := cursorsCount_bitSteps hbits hnext v k hj
    have hone : clockEdges ((bitSteps phase w nxt v k j).map Prod.fst) = 1 := by
      rw [bitSteps, List.map_map]
      exact (congrArg clockEdges (List.map_id _)).trans (clockEdges_bitEvents v k j)
    rw [List.range_succ, List.flatMap_append, List.flatMap_singleton, List.map_append, clockEdges_append, hedges, hone]
    exact ⟨hcount.append (by rwa [hedges]), rfl⟩

/-- A word counts its 16 edges and ends at the cursor of the next word. -/
theorem cursorsCount_wordSteps : CursorsCount f n (wordSteps phase w nxt v k) := by
  obtain ⟨hcount, hedges⟩ := cursorsCount_bits hbits hnext v k le_rfl
  rw [wordSteps_eq_bitSteps]
  refine hcount.append ?_
  rw [hedges]
  simp [CursorsCount, clockEdges, hnext]

end

theorem clockEdges_wordEvents (v : Word) (k : Nat) : clockEdges (wordEvents v k) = 16 := by
  have hbits : ∀ j, clockEdges ((List.range j).flatMap (bitEvents v k)) = j := fun j => by
    induction j with
    | zero => rfl
    | succ j ih => rw [List.range_succ, List.flatMap_append, clockEdges_append, ih, List.flatMap_singleton,
        clockEdges_bitEvents]
  rw [wordEvents, clockEdges_append, hbits]
  rfl

/-- An operation counts its edges word by word. -/
theorem cursorsCount_planSteps (sls : List Slot) (s : State) {f : Nat → Cursor} {n : Nat}
    (hf : ∀ e, f (n + e) = planCursor sls e) : CursorsCount f n (planSteps sls s) := by
  induction sls generalizing n with
  | nil => trivial
  | cons sl rest ih =>
    have hrest : ∀ e, f (n + 16 + e) = planCursor rest e := fun e => by
      rw [Nat.add_assoc, hf, planCursor_cons_add]
    have hbits : ∀ e < 16, f (n + e) = ⟨sl.phase, sl.w, e⟩ := fun e he => by rw [hf, planCursor_cons_of_lt _ _ he]
    have hnext : f (n + 16) = cursorOf rest := (hrest 0).trans (planCursor_zero rest)
    refine CursorsCount.append (cursorsCount_wordSteps hbits hnext _ _) ?_
    rw [slotSteps, wordSteps_events, clockEdges_wordEvents]
    exact ih hrest

/-! ### What a collision inside a serial operation leaves -/

/-- `u` is what a TICK leaves that finds the host after `m` of the pin events `es` of the operation `sls` begun in `t`. -/
structure CutAt (sls : List Slot) (es : List Event) (m : Nat) (t u : State) : Prop where
  leaves : CollisionLeaves t u (es.take m)
  cfg : u.cfg = t.cfg
  tx : u.tx = t.tx
  ready : u.ready = t.ready
  seq : u.seq = planCursor sls (clockEdges (es.take m))

section
variable {sls : List Slot} {es : List Event} {t : State} {m : Nat} {rest : List Nat}
  (hes : wordsEvents (slotWords t sls) = es) (hpos : 0 < m) (hlt : m < es.length)
include hes hpos hlt

theorem cutState_cutAt : CutAt sls es m t (cutState (planSteps sls t) m rest t) := by
  have hevents : ((planSteps sls t).take m).map Prod.fst = es.take m := by
    rw [List.map_take, planSteps_events, hes]
  have hgck : (replay t.levels (((planSteps sls t).take m).map Prod.fst)).gck = t.gck := by
    refine replay_gck (fun e he => ?_) t.levels
    obtain ⟨x, hx, rfl⟩ := List.mem_map.1 he
    exact planSteps_line (List.mem_of_mem_take hx)
  have hne : (planSteps sls t).take m ≠ [] := by
    refine List.ne_nil_of_length_pos ?_
    rw [List.length_take, planSteps_length, hes]
    omega
  have hcount := (cursorsCount_planSteps sls t (f := planCursor sls) (n := 0) fun e => by rw [Nat.zero_add]).take m
  have hseq := hcount.getLast hne t.seq
  rw [Nat.zero_add, hevents] at hseq
  rw [cutState, sendPins_spec, hgck, hevents]
  exact ⟨⟨rfl, rfl, rfl, rfl, rfl, rfl, rfl, rfl, rfl, rfl⟩, rfl, rfl, rfl, hseq⟩

/-- A TICK strictly inside a serial operation. -/
theorem hostSlots_cut (h : HostOp) (hticks : t.ticks = m :: rest) :
    ∃ u, hostSlots h sls t = .fault (.collision u) ∧ CutAt sls es m t u :=
  ⟨_, hostSlots_collides hticks hpos (hes ▸ hlt), cutState_cutAt hes hpos hlt⟩

end

/-! ### The serial commands cut by a TICK -/

/-- The state START and STOP begin their serial window in. -/
def switchedState (newCfg : Config.Params → Word → Word) (ts : List Nat) (s : State) : State :=
  ((s.setCfg (newCfg s.par s.cfg)).setHostOp .between).setTicks ts

/-- The state WRITE_FRAME begins its serial window in, when no TICK came before. -/
def correctedState (ts : List Nat) (s : State) : State :=
  ((((s.setOrder (s.order.drop s.par.n)).setTx (corrected s)).setReady true).setHostOp .between).setTicks ts

section
variable {s : State} {m : Nat} {rest : List Nat} (hticks : s.ticks = m :: rest)
include hticks

theorem exec_putWord_cut {k : Nat} {val : Word} (hpos : 0 < m) (hlt : m < (wordEvents val k).length) :
    ∃ u, exec (.putWord k val) s = .fault (.collision u) ∧ CutAt (rawPlan k val) (wordEvents val k) m s u :=
  hostSlots_cut (slotWords_rawPlan k val s) hpos hlt .none hticks

theorem exec_writeConfig_cut (hpos : 0 < m) (hlt : m < 102) :
    ∃ u, exec .writeConfig s = .fault (.collision u) ∧ CutAt configPlan (wordsEvents (configWords s.cfg)) m s u :=
  hostSlots_cut (by rw [slotWords_configPlan]) hpos (by rwa [configEvents_length]) .none hticks

theorem switchClock_cut (newCfg : Config.Params → Word → Word) (v : Bool) (hlow : 1 < m) (hhigh : m < 103) :
    ∃ u, switchClock newCfg v s = .fault (.collision u) ∧
      CutAt configPlan (wordsEvents (configWords (newCfg s.par s.cfg))) (m - 1)
        (switchedState newCfg ((m - 1) :: rest) s) u := by
  have hquiet : s.quiet 1 = true := by simp [State.quiet, hticks]; omega
  obtain ⟨u, hu, hcut⟩ := hostSlots_cut (sls := configPlan) (t := switchedState newCfg ((m - 1) :: rest) s)
    (m := m - 1) rfl (by omega) (by rw [slotWords_configPlan, configEvents_length]; omega) .between rfl
  have hstate : (((s.setCfg (newCfg s.par s.cfg)).setHostOp .between).countdown) =
      switchedState newCfg ((m - 1) :: rest) s := by
    rw [State.countdown, State.setHostOp_ticks, State.setCfg_ticks, hticks]
    rfl
  refine ⟨u, ?_, hcut⟩
  rw [switchClock, micro_of_quiet hquiet, andThen_next, hstate, writeConfig, hu]
  rfl

theorem exec_writeFrame_cut (hbuf : s.buffersOk = true) (hlow : s.par.n + 1 < m) (hhigh : m < writeFrameSent s) :
    ∃ u, exec .writeFrame s = .fault (.collision u) ∧
      CutAt (framePlan s.par) (frameEvents s.par (corrected s)) (m - (s.par.n + 1))
        (correctedState ((m - (s.par.n + 1)) :: rest) s) u := by
  obtain ⟨hdraw, -⟩ := State.buffersOk_lengths hbuf
  have hquiet : s.quiet (s.par.n + 1) = true := by simp [State.quiet, hticks]; omega
  have hevents : wordsEvents (slotWords (correctedState ((m - (s.par.n + 1)) :: rest) s) (framePlan s.par)) =
      frameEvents s.par (corrected s) :=
    congrArg wordsEvents (slotWords_framePlan (s := correctedState ((m - (s.par.n + 1)) :: rest) s)
      (by simp [correctedState, corrected, hdraw]))
  unfold writeFrameSent at hhigh
  obtain ⟨u, hu, hcut⟩ := hostSlots_cut hevents (m := m - (s.par.n + 1)) (by omega) (by omega) .between rfl
  have hpass := correctionPass_eq hbuf .transmit .between
  rw [passFrames_of_quiet hquiet, (ticks_of_quiet hquiet).2, hticks] at hpass
  refine ⟨u, ?_, hcut⟩
  rw [exec, execWriteFrame, hpass, andThen_next]
  exact andThen_eq_fault.2 (.inl hu)

end

/-- Settles O45: each command cut inside its window (`CutAt`), begun in a state that has what the command did before. -/
theorem tickInsideSerialCommandCollides : Obligations.TickInsideSerialCommandCollides := by
  intro s m rest hticks
  refine ⟨fun k val hpos hlt => ?putWord, fun hpos hlt => ?writeConfig, fun hlow hhigh => ?start, fun hlow hhigh => ?stop,
    fun hbuf hlow hhigh => ?writeFrame⟩
  case putWord =>
    obtain ⟨u, hu, hcut⟩ := exec_putWord_cut hticks hpos hlt
    exact ⟨u, hu, hcut.cfg, hcut.tx, hcut.ready, hcut.leaves⟩
  case writeConfig =>
    obtain ⟨u, hu, hcut⟩ := exec_writeConfig_cut hticks hpos hlt
    exact ⟨u, hu, hcut.cfg, hcut.tx, hcut.ready, hcut.leaves⟩
  case start =>
    obtain ⟨u, hu, hcut⟩ := switchClock_cut hticks cfgEnabled true hlow hhigh
    exact ⟨u, hu, hcut.cfg, hcut.tx, hcut.ready, hcut.leaves⟩
  case stop =>
    obtain ⟨u, hu, hcut⟩ := switchClock_cut hticks cfgDisabled false hlow hhigh
    exact ⟨u, hu, hcut.cfg, hcut.tx, hcut.ready, hcut.leaves⟩
  case writeFrame =>
    obtain ⟨u, hu, hcut⟩ := exec_writeFrame_cut hticks hbuf hlow hhigh
    exact ⟨u, hu, hcut.cfg, hcut.tx, hcut.ready, hcut.leaves⟩

/-! ### The cursors of the three plans (R28) -/

theorem planCursor_rawPlan (k : Nat) (val : Word) (edges : Nat) :
    planCursor (rawPlan k val) edges = if edges < 16 then ⟨.raw, 0, edges⟩ else .idle := by
  split
  case isTrue h => exact planCursor_cons_of_lt _ _ h
  case isFalse h =>
    obtain ⟨e, rfl⟩ := Nat.exists_eq_add_of_le (Nat.not_lt.1 h)
    exact planCursor_cons_add _ _ e

theorem planCursor_configPlan (edges : Nat) : planCursor configPlan edges = configCursor edges := by
  unfold configCursor
  split
  case isTrue h => exact planCursor_cons_of_lt _ _ h
  case isFalse h =>
    obtain ⟨e, rfl⟩ := Nat.exists_eq_add_of_le (Nat.not_lt.1 h)
    have hsub : 16 + e - 16 = e := Nat.add_sub_cancel_left 16 e
    rw [configPlan, planCursor_cons_add, hsub]
    split
    case isTrue h' => exact planCursor_cons_of_lt _ _ (by omega)
    case isFalse h' =>
      obtain ⟨e', rfl⟩ := Nat.exists_eq_add_of_le (show 16 ≤ e by omega)
      exact planCursor_cons_add _ _ e'

/-- The words of a frame by their number: padding, then the LEDs from the highest index down, then the end word. -/
theorem framePlan_getElem? (p : Config.Params) (q : Nat) :
    (framePlan p)[q]? =
      if q < padCount p.n then some ⟨.zero, p.lcData, .pad, q⟩
      else if q < padCount p.n + p.n then
        some ⟨.led (p.n - 1 - (q - padCount p.n)), p.lcData, .data, p.n - 1 - (q - padCount p.n)⟩
      else if q = padCount p.n + p.n then some ⟨.zero, Config.lcFrame, .endWord, 0⟩
      else none := by
  have hlen : (framePlan p).length = padCount p.n + p.n + 1 := by
    simp [framePlan, Nat.add_assoc]
  split
  case isTrue hpad => simp [framePlan, hpad, Nat.lt_add_right]
  case isFalse hpad =>
    split
    case isTrue hled =>
      have hq : q - padCount p.n < p.n := by omega
      simp [framePlan, List.getElem?_append, hpad, hq]
    case isFalse hled =>
      split
      case isTrue hend => simp [framePlan, hend]
      case isFalse hend => exact List.getElem?_eq_none (by omega)

theorem planCursor_framePlan (p : Config.Params) (edges : Nat) :
    planCursor (framePlan p) edges = frameCursor p.n edges := by
  rw [planCursor, framePlan_getElem?, frameCursor]
  by_cases hpad : edges / 16 < padCount p.n
  · simp only [if_pos hpad]
  by_cases hled : edges / 16 < padCount p.n + p.n
  · simp only [if_neg hpad, if_pos hled]
  by_cases hend : edges / 16 = padCount p.n + p.n
  · simp only [if_neg hpad, if_neg hled, if_pos hend]
  · simp only [if_neg hpad, if_neg hled, if_neg hend]

/-- Settles O46: the cursor of each operation's plan, which counts the edges sent (`CutAt.seq`). -/
theorem cursorCountsClockEdges : Obligations.CursorCountsClockEdges := by
  intro s m rest hticks
  refine ⟨fun k val hpos hlt => ?putWord, fun hpos hlt => ?writeConfig, fun hlow hhigh => ?start, fun hlow hhigh => ?stop,
    fun hbuf hlow hhigh => ?writeFrame⟩
  case putWord =>
    obtain ⟨u, hu, hcut⟩ := exec_putWord_cut hticks hpos hlt
    refine ⟨u, hu, fun edges hedges => ?_⟩
    rw [hcut.seq, planCursor_rawPlan, hedges]
  case writeConfig =>
    obtain ⟨u, hu, hcut⟩ := exec_writeConfig_cut hticks hpos hlt
    exact ⟨u, hu, by rw [hcut.seq, planCursor_configPlan]⟩
  case start =>
    obtain ⟨u, hu, hcut⟩ := switchClock_cut hticks cfgEnabled true hlow hhigh
    exact ⟨u, hu, by rw [hcut.seq, planCursor_configPlan]; rfl⟩
  case stop =>
    obtain ⟨u, hu, hcut⟩ := switchClock_cut hticks cfgDisabled false hlow hhigh
    exact ⟨u, hu, by rw [hcut.seq, planCursor_configPlan]; rfl⟩
  case writeFrame =>
    obtain ⟨u, hu, hcut⟩ := exec_writeFrame_cut hticks hbuf hlow hhigh
    exact ⟨u, hu, by rw [hcut.seq, planCursor_framePlan]⟩

/-! ### The ordinary TICKs of START and STOP (R162, R163) -/

theorem hostSlots_configPlan_of_free (h : HostOp) {t : State} (hfree : t.hostop ≠ .serial) (htx : t.tx.length = t.par.n)
    (hclear : ClearAhead 102 t.ticks) :
    hostSlots h configPlan t =
      .next ((((t.sendFrames (List.replicate (ticksWithin 1 t.ticks) t.tx)).sendWords (configWords t.cfg)
        (t.cfg.getLsbD 0)).setHostOp h).setTicks (ticksAfter 102 t.ticks)) := by
  have hquiet := (quiet_iff_clearAhead (s := t)).2 hclear
  have hsend := hostSlots_of_free (h := h) (sls := configPlan) (List.cons_ne_nil _ _) hfree htx
    (by rwa [slotWords_configPlan, configEvents_length])
  rw [hsend, slotWords_configPlan, configEvents_length, sendSlots_configPlan, State.sendFrames_cfg,
    (clearAhead_iff_elapse (by decide) hclear).2]

theorem State.sendFrames_setCfg (s : State) (ms : List Memory) (c : Word) :
    (s.setCfg c).sendFrames ms = (s.sendFrames ms).setCfg c := by
  simp [sendFrames_eq, setCfg]

/-- START and STOP under a schedule with no TICK inside their serial window. -/
theorem switchClock_of_free (newCfg : Config.Params → Word → Word) (v : Bool) {s : State} (hfree : s.hostop ≠ .serial)
    (htx : s.tx.length = s.par.n) (hclear : ClearAhead 102 (ticksAfter 1 s.ticks)) :
    switchClock newCfg v s =
      .next ((((((((s.setCfg (newCfg s.par s.cfg)).sendFrames (List.replicate (ticksWithin 2 s.ticks) s.tx)).sendWords
        (configWords (newCfg s.par s.cfg)) ((newCfg s.par s.cfg).getLsbD 0)).setHostOp .between).sendFrames
          (List.replicate (ticksWithin 1 (ticksAfter 103 s.ticks)) s.tx)).drive ⟨.gck, v⟩).setHostOp .none).setTicks
            (ticksAfter 104 s.ticks)) := by
  generalize ht : (((s.setCfg (newCfg s.par s.cfg)).sendFrames (List.replicate (ticksWithin 1 s.ticks) s.tx)).setHostOp
    .between).setTicks (ticksAfter 1 s.ticks) = t
  have hfirst : micro (fun t => (t.setCfg (newCfg t.par t.cfg)).setHostOp .between) s = .next t := by
    rw [micro_of_free (fun _ _ => rfl) hfree htx, ← ht, State.sendFrames_setCfg, State.sendFrames_par, State.sendFrames_cfg]
  have htpar : t.par = s.par := by simp [← ht]
  have httx : t.tx = s.tx := by simp [← ht]
  have htcfg : t.cfg = newCfg s.par s.cfg := by simp [← ht]
  have htticks : t.ticks = ticksAfter 1 s.ticks := by simp [← ht]
  have hframes : t.sendFrames (List.replicate (ticksWithin 1 (ticksAfter 1 s.ticks)) s.tx) =
      (((s.setCfg (newCfg s.par s.cfg)).sendFrames (List.replicate (ticksWithin 2 s.ticks) s.tx)).setHostOp
        .between).setTicks (ticksAfter 1 s.ticks) := by
    rw [← ht, State.sendFrames_setTicks, State.sendFrames_setHostOp, ← State.sendFrames_append,
      List.replicate_append_replicate, ← ticksWithin_add]
  have hwords := hostSlots_configPlan_of_free .between (t := t) (by simp [← ht]) (by rw [httx, htpar, htx]) (htticks ▸ hclear)
  rw [httx, htcfg, htticks, hframes, ← ticksAfter_add] at hwords
  generalize hsent : ((s.setCfg (newCfg s.par s.cfg)).sendFrames (List.replicate (ticksWithin 2 s.ticks) s.tx)).sendWords
    (configWords (newCfg s.par s.cfg)) ((newCfg s.par s.cfg).getLsbD 0) = w
  have hsend : hostSlots .between configPlan t = .next ((w.setHostOp .between).setTicks (ticksAfter 103 s.ticks)) := by
    rw [hwords, ← hsent]
    rfl
  have hwpar : w.par = s.par := by simp [← hsent, State.sendWords]
  have hwtx : w.tx = s.tx := by simp [← hsent, State.sendWords]
  have hlast := micro_of_free (f := fun u => (u.drive ⟨.gck, v⟩).setHostOp .none) (fun _ _ => rfl)
    (s := (w.setHostOp .between).setTicks (ticksAfter 103 s.ticks)) (by simp) (by simp [hwtx, hwpar, htx])
  rw [switchClock, hfirst, andThen_next, writeConfig, hsend, andThen_next, hlast, State.sendFrames_setTicks,
    State.setTicks_ticks, ← ticksAfter_add, State.setTicks_tx, State.setHostOp_tx, hwtx]
  rfl

/-- A command of START or STOP with one TICK outside its window. -/
theorem switchClock_one_tick (newCfg : Config.Params → Word → Word) (v : Bool) {s : State} {m : Nat}
    (htx : s.tx.length = s.par.n) (hfree : s.hostop ≠ .serial) (hticks : s.ticks = [m]) (hm : m ≤ 1 ∨ m = 103) :
    ∃ t, switchClock newCfg v s = .next t ∧ t.cfg = newCfg s.par s.cfg ∧ t.gck = v ∧ t.frame = s.frame + 1 ∧
      t.fault = s.fault ∧ t.ready = false ∧ t.tx = s.tx ∧ t.hostop = .none ∧ t.ticks = [] ∧
      t.wire = s.wire ++ (if m = 103
        then wordsEvents (configWords (newCfg s.par s.cfg)) ++ frameEvents s.par s.tx
        else frameEvents s.par s.tx ++ wordsEvents (configWords (newCfg s.par s.cfg))) ++ [⟨.gck, v⟩] := by
  have hclear : ClearAhead 102 (ticksAfter 1 s.ticks) := by
    intro k rest hk
    rw [hticks] at hk
    rcases hm with hm | rfl
    · interval_cases m <;> simp [ticksAfter] at hk
    · simp [ticksAfter] at hk
      omega
  refine ⟨_, switchClock_of_free newCfg v hfree htx hclear, ?_⟩
  rw [hticks]
  rcases hm with hm | rfl
  · have hearly : ticksWithin 2 [m] = 1 := by rw [ticksWithin, if_pos (by omega)]; rfl
    have hspent : ∀ j, 1 < j → ticksAfter j [m] = [] := fun j hj => by rw [ticksAfter, if_pos (by omega)]; rfl
    have hne : m ≠ 103 := by omega
    rw [hearly, hspent 103 (by decide), hspent 104 (by decide), if_neg hne]
    simp [State.sendWords, State.drive, State.sendFrames_eq, ticksWithin, State.setCfg]
  · simp [State.sendWords, State.drive, State.sendFrames_eq, ticksWithin, ticksAfter, State.setCfg]

/-- Settles O47. -/
theorem tickOutsideStartStopWindow : Obligations.TickOutsideStartStopWindow := by
  intro s m htx hfree hticks hm
  exact ⟨switchClock_one_tick cfgEnabled true htx hfree hticks hm, switchClock_one_tick cfgDisabled false htx hfree hticks hm⟩

end Sys2Proof.Machine
end

section
/-! SUPPORT. The solver at the Chebyshev nodes (R110 to R115): the nodes are `-p, -q, q, p` with a few polynomial relations
between `p` and `q`, from which interpolation, the exact fit of `1/x` and the rounding of the reference table follow. -/

namespace Sys2Proof.Machine

/-! ### The nodes (R110) -/

/-- `p = cos (π/8)`, `q = sin (π/8)` and `r = cos (π/4)`: what the Chebyshev polynomials make of them. -/
structure NodeRelations (p q r : ℝ) : Prop where
  p_pos : 0 < p
  q_pos : 0 < q
  r_pos : 0 < r
  sum_sq : p ^ 2 + q ^ 2 = 1
  r_sq : r ^ 2 = 1 / 2
  double : 2 * p ^ 2 - 1 = r
  prod : 2 * p * q = r
  triple_p : 4 * p ^ 3 - 3 * p = q
  triple_q : 4 * q ^ 3 - 3 * q = -p

theorem cos_three_pi_div_eight : Real.cos (3 * Real.pi / 8) = Real.sin (Real.pi / 8) := by
  rw [← Real.cos_pi_div_two_sub]
  congr 1
  ring

theorem nodeRelations_pi_div_eight :
    NodeRelations (Real.cos (Real.pi / 8)) (Real.sin (Real.pi / 8)) (Real.cos (Real.pi / 4)) where
  p_pos := Real.cos_pos_of_mem_Ioo ⟨by linarith [Real.pi_pos], by linarith [Real.pi_pos]⟩
  q_pos := Real.sin_pos_of_pos_of_lt_pi (by positivity) (by linarith [Real.pi_pos])
  r_pos := Real.cos_pos_of_mem_Ioo ⟨by linarith [Real.pi_pos], by linarith [Real.pi_pos]⟩
  sum_sq := Real.cos_sq_add_sin_sq _
  r_sq := by
    rw [Real.cos_pi_div_four, div_pow, Real.sq_sqrt (by norm_num)]
    norm_num
  double := by
    rw [← Real.cos_two_mul]
    congr 1
    ring
  prod := by
    have hdouble := Real.sin_two_mul (Real.pi / 8)
    have hangle : 2 * (Real.pi / 8) = Real.pi / 4 := by ring
    rw [hangle, Real.sin_pi_div_four, ← Real.cos_pi_div_four] at hdouble
    linarith
  triple_p := by
    rw [← Real.cos_three_mul, ← cos_three_pi_div_eight]
    congr 1
    ring
  triple_q := by
    have htriple := Real.sin_three_mul (Real.pi / 8)
    have hangle : 3 * (Real.pi / 8) = Real.pi / 2 - Real.pi / 8 := by ring
    rw [hangle, Real.sin_pi_div_two_sub] at htriple
    linarith

theorem isChebyshevNodes_eq {u : Four ℝ} (h : IsChebyshevNodes u) :
    u = ⟨-Real.cos (Real.pi / 8), -Real.sin (Real.pi / 8), Real.sin (Real.pi / 8), Real.cos (Real.pi / 8)⟩ := by
  obtain ⟨v1, v2, v3, v4⟩ := u
  obtain ⟨h1, h2, h3, h4⟩ := h
  have h5 : Real.cos (5 * Real.pi / 8) = -Real.sin (Real.pi / 8) := by
    rw [← cos_three_pi_div_eight, ← Real.cos_pi_sub]
    congr 1
    ring
  have h7 : Real.cos (7 * Real.pi / 8) = -Real.cos (Real.pi / 8) := by
    rw [← Real.cos_pi_sub]
    congr 1
    ring
  simp only at h1 h2 h3 h4
  rw [h1, h2, h3, h4, h5, h7, cos_three_pi_div_eight, one_mul, neg_neg, neg_neg]

/-- The nodes are `-p, -q, q, p`. -/
theorem exists_nodeRelations {u : Four ℝ} (h : IsChebyshevNodes u) :
    ∃ p q r, NodeRelations p q r ∧ u = ⟨-p, -q, q, p⟩ :=
  ⟨_, _, _, nodeRelations_pi_div_eight, isChebyshevNodes_eq h⟩

/-- Settles O30: the half angle of `π/4`. -/
theorem chebyshevNodeValues : Obligations.ChebyshevNodeValues := by
  intro u hu
  rw [isChebyshevNodes_eq hu, Real.cos_pi_div_eight, Real.sin_pi_div_eight]
  exact ⟨rfl, rfl, rfl, rfl⟩

/-! ### The coefficients of the fit (R111 to R113) -/

/-- The coefficients from the samples at the nodes. -/
noncomputable def nodeCoef (p q r : ℝ) (y : Four ℝ) : Coef ℝ :=
  ⟨(y.v1 + y.v2 + y.v3 + y.v4) / 4, (p * (y.v4 - y.v1) + q * (y.v3 - y.v2)) / 2, r * (y.v1 - y.v2 - y.v3 + y.v4) / 2,
    (q * (y.v4 - y.v1) - p * (y.v3 - y.v2)) / 2⟩

section
variable {p q r : ℝ} (hn : NodeRelations p q r)
include hn

theorem chebyshev2_p : chebyshev2 p = r := by
  have := hn.double
  simp only [chebyshev2, Nat.cast_ofNat, Nat.cast_one]
  linarith

theorem chebyshev2_q : chebyshev2 q = -r := by
  have := hn.double
  have := hn.sum_sq
  simp only [chebyshev2, Nat.cast_ofNat, Nat.cast_one]
  linarith

theorem chebyshev3_p : chebyshev3 p = q := by
  have := hn.triple_p
  simp only [chebyshev3, Nat.cast_ofNat]
  linarith

theorem chebyshev3_q : chebyshev3 q = -p := by
  have := hn.triple_q
  simp only [chebyshev3, Nat.cast_ofNat]
  linarith

theorem fit_eq_nodeCoef (f : ℝ → ℝ) (a b : ℝ) :
    fit ⟨-p, -q, q, p⟩ f a b =
      nodeCoef p q r ((⟨-p, -q, q, p⟩ : Four ℝ).map fun t => f (nodeToDomain a b t)) := by
  have h2 : ∀ x : ℝ, chebyshev2 (-x) = chebyshev2 x := fun x => by simp [chebyshev2]
  have h3 : ∀ x : ℝ, chebyshev3 (-x) = -chebyshev3 x := fun x => by simp only [chebyshev3]; ring
  simp only [fit, nodeCoef, Four.map, Four.times, mean, h2, h3, chebyshev2_p hn, chebyshev2_q hn, chebyshev3_p hn,
    chebyshev3_q hn, Nat.cast_ofNat, Coef.mk.injEq]
  refine ⟨trivial, ?_, ?_, ?_⟩ <;> ring

/-- The expansion takes the samples at the four nodes: the discrete orthogonality of the Chebyshev polynomials. -/
theorem nodeCoef_interpolates (y : Four ℝ) :
    let c := nodeCoef p q r y
    c.c0 + c.c1 * -p + c.c2 * r + c.c3 * -q = y.v1 ∧ c.c0 + c.c1 * -q + c.c2 * -r + c.c3 * p = y.v2 ∧
      c.c0 + c.c1 * q + c.c2 * -r + c.c3 * -p = y.v3 ∧ c.c0 + c.c1 * p + c.c2 * r + c.c3 * q = y.v4 := by
  have hsum := hn.sum_sq
  have hr := hn.r_sq
  simp only [nodeCoef]
  refine ⟨?_, ?_, ?_, ?_⟩
  · linear_combination (y.v1 - y.v4) / 2 * hsum + (y.v1 - y.v2 - y.v3 + y.v4) / 2 * hr
  · linear_combination (y.v2 - y.v3) / 2 * hsum - (y.v1 - y.v2 - y.v3 + y.v4) / 2 * hr
  · linear_combination (y.v3 - y.v2) / 2 * hsum - (y.v1 - y.v2 - y.v3 + y.v4) / 2 * hr
  · linear_combination (y.v4 - y.v1) / 2 * hsum + (y.v1 - y.v2 - y.v3 + y.v4) / 2 * hr

end

/-- The evaluator at a mapped node is the expansion at the node (R111, R115). -/
theorem approx_nodeToDomain (c : Coef ℝ) {a b : ℝ} (hab : a ≠ b) (v : ℝ) :
    approx c a b (nodeToDomain a b v) = c.c0 + c.c1 * v + c.c2 * chebyshev2 v + c.c3 * chebyshev3 v := by
  have hu : (((2 : Nat) : ℝ) * nodeToDomain a b v - a - b) / (b - a) = v := by
    have hne : b - a ≠ 0 := sub_ne_zero.2 hab.symm
    simp only [nodeToDomain, Nat.cast_ofNat]
    field_simp
    ring
  simp only [approx, hu]

/-- Settles O31. -/
theorem fitInterpolatesSamples : Obligations.FitInterpolatesSamples := by
  intro u f a b hu hab v hv
  obtain ⟨p, q, r, hn, rfl⟩ := exists_nodeRelations hu
  have h2 : ∀ x : ℝ, chebyshev2 (-x) = chebyshev2 x := fun x => by simp [chebyshev2]
  have h3 : ∀ x : ℝ, chebyshev3 (-x) = -chebyshev3 x := fun x => by simp only [chebyshev3]; ring
  obtain ⟨h₁, h₂, h₃, h₄⟩ := nodeCoef_interpolates hn ((⟨-p, -q, q, p⟩ : Four ℝ).map fun t => f (nodeToDomain a b t))
  rw [approx_nodeToDomain _ hab, fit_eq_nodeCoef hn]
  simp only [List.mem_cons, List.not_mem_nil, or_false] at hv
  rcases hv with rfl | rfl | rfl | rfl
  · rw [h2, h3, chebyshev2_p hn, chebyshev3_p hn, h₁]; rfl
  · rw [h2, h3, chebyshev2_q hn, chebyshev3_q hn, neg_neg, h₂]; rfl
  · rw [chebyshev2_q hn, chebyshev3_q hn, h₃]; rfl
  · rw [chebyshev2_p hn, chebyshev3_p hn, h₄]; rfl

/-! ### The fit of `1/x` (V2) -/

/-- A sample of `1/x` on `[0, 100]` without the division: `(1 - v²) w² = 1/8` for the two squares of the nodes. -/
theorem reciprocal_nodeToDomain {v w : ℝ} (h : 8 * w ^ 2 * (1 - v ^ 2) = 1) :
    1 / nodeToDomain 0 100 v = 8 * w ^ 2 * (1 - v) / 50 := by
  have hne : 1 + v ≠ 0 := fun hzero => by
    have hv : v = -1 := by linarith
    norm_num [hv] at h
  have hdomain : nodeToDomain (0 : ℝ) 100 v = 50 * (1 + v) := by
    simp only [nodeToDomain, Nat.cast_ofNat]
    ring
  rw [hdomain]
  field_simp
  linarith

/-- Settles O32: the samples are polynomials in the nodes, and so are the coefficients. -/
theorem fitOfReciprocal : Obligations.FitOfReciprocal := by
  intro u hu
  obtain ⟨p, q, r, hn, rfl⟩ := exists_nodeRelations hu
  have hsum := hn.sum_sq
  have hr := hn.r_sq
  have hdouble := hn.double
  have hprod := hn.prod
  have hpq : 8 * p ^ 2 * q ^ 2 = 1 := by nlinarith
  have hp : 8 * p ^ 2 * (1 - p ^ 2) = 1 := by nlinarith
  have hq : 8 * q ^ 2 * (1 - q ^ 2) = 1 := by nlinarith
  rw [fit_eq_nodeCoef hn]
  simp only [Four.map, reciprocal_nodeToDomain (v := -p) (w := p) (by rwa [neg_sq]),
    reciprocal_nodeToDomain (v := -q) (w := q) (by rwa [neg_sq]), reciprocal_nodeToDomain hq,
    reciprocal_nodeToDomain hp, nodeCoef, Coef.mk.injEq]
  refine ⟨?_, ?_, ?_, ?_⟩
  · linear_combination (2 / 25) * hsum
  · linear_combination (-(4 / 25)) * ((p ^ 2 + q ^ 2 + 1) * hsum - 1 / 4 * hpq)
  · linear_combination (4 / 25) * (r * (hdouble - hsum) + hr)
  · linear_combination (-(4 / 25)) * ((p ^ 2 - q ^ 2) / 2 * hprod + r / 2 * (hdouble - hsum) + 1 / 2 * hr)

/-! ### The reference table (R121, V1) -/

/-- The exponent of the gamma curve is `14/5`: comparing with `x^2.8` is comparing a fourteenth with a fifth power. -/
theorem rpow_gamma_pow_five {x : ℝ} (hx : 0 ≤ x) : (x ^ (Config.gamma : ℝ)) ^ 5 = x ^ 14 := by
  rw [← Real.rpow_natCast, ← Real.rpow_natCast, ← Real.rpow_mul hx]
  congr 1
  norm_num [Config.gamma]

theorem le_rpow_gamma {l a x : ℝ} (ha : 0 ≤ a) (hax : a ≤ x) (h : l ^ 5 ≤ a ^ 14) : l ≤ x ^ (Config.gamma : ℝ) := by
  have hx := ha.trans hax
  refine le_of_pow_le_pow_left₀ (by decide : 5 ≠ 0) (Real.rpow_nonneg hx _) ?_
  rw [rpow_gamma_pow_five hx]
  exact h.trans (pow_le_pow_left₀ ha hax 14)

theorem rpow_gamma_le {l b x : ℝ} (hx : 0 ≤ x) (hxb : x ≤ b) (hl : 0 ≤ l) (h : b ^ 14 ≤ l ^ 5) :
    x ^ (Config.gamma : ℝ) ≤ l := by
  refine le_of_pow_le_pow_left₀ (by decide : 5 ≠ 0) hl ?_
  rw [rpow_gamma_pow_five hx]
  exact (pow_le_pow_left₀ hx hxb 14).trans h

theorem nodeToDomain_unit (v : ℝ) : nodeToDomain 0 1 v = (v + 1) / 2 := by
  simp only [nodeToDomain, Nat.cast_ofNat]
  ring

section
variable {p q r : ℝ} (hn : NodeRelations p q r)
include hn

theorem r_bounds : 0.707106781 ≤ r ∧ r ≤ 0.707106782 := by
  have hr := hn.r_sq
  exact ⟨le_of_sq_le_sq (by rw [hr]; norm_num) hn.r_pos.le, le_of_sq_le_sq (by rw [hr]; norm_num) (by norm_num)⟩

theorem p_bounds : 0.92387953 ≤ p ∧ p ≤ 0.92387954 := by
  obtain ⟨hlow, hhigh⟩ := r_bounds hn
  have hp : p ^ 2 = (1 + r) / 2 := by linarith [hn.double]
  exact ⟨le_of_sq_le_sq (by rw [hp]; linarith) hn.p_pos.le, le_of_sq_le_sq (by rw [hp]; linarith) (by norm_num)⟩

theorem q_bounds : 0.38268343 ≤ q ∧ q ≤ 0.38268344 := by
  obtain ⟨hlow, hhigh⟩ := r_bounds hn
  have hq : q ^ 2 = (1 - r) / 2 := by linarith [hn.double, hn.sum_sq]
  exact ⟨le_of_sq_le_sq (by rw [hq]; linarith) hn.q_pos.le, le_of_sq_le_sq (by rw [hq]; linarith) (by norm_num)⟩

/-- The four samples of `x^2.8` on `[0, 1]`, to about seven digits. -/
theorem gamma_sample_bounds :
    (0.000106 ≤ nodeToDomain 0 1 (-p) ^ (Config.gamma : ℝ) ∧ nodeToDomain 0 1 (-p) ^ (Config.gamma : ℝ) ≤ 0.0001061) ∧
    (0.0371995 ≤ nodeToDomain 0 1 (-q) ^ (Config.gamma : ℝ) ∧ nodeToDomain 0 1 (-q) ^ (Config.gamma : ℝ) ≤ 0.0371997) ∧
    (0.3557457 ≤ nodeToDomain 0 1 q ^ (Config.gamma : ℝ) ∧ nodeToDomain 0 1 q ^ (Config.gamma : ℝ) ≤ 0.3557458) ∧
    (0.8970446 ≤ nodeToDomain 0 1 p ^ (Config.gamma : ℝ) ∧ nodeToDomain 0 1 p ^ (Config.gamma : ℝ) ≤ 0.8970447) := by
  obtain ⟨hp, hp'⟩ := p_bounds hn
  obtain ⟨hq, hq'⟩ := q_bounds hn
  simp only [nodeToDomain_unit]
  refine ⟨⟨?_, ?_⟩, ⟨?_, ?_⟩, ⟨?_, ?_⟩, ⟨?_, ?_⟩⟩
  · exact le_rpow_gamma (a := 0.03806023) (by norm_num) (by linarith) (by norm_num)
  · exact rpow_gamma_le (b := 0.038060235) (by linarith) (by linarith) (by norm_num) (by norm_num)
  · exact le_rpow_gamma (a := 0.30865828) (by norm_num) (by linarith) (by norm_num)
  · exact rpow_gamma_le (b := 0.308658285) (by linarith) (by linarith) (by norm_num) (by norm_num)
  · exact le_rpow_gamma (a := 0.691341715) (by norm_num) (by linarith) (by norm_num)
  · exact rpow_gamma_le (b := 0.69134172) (by linarith) (by linarith) (by norm_num) (by norm_num)
  · exact le_rpow_gamma (a := 0.961939765) (by norm_num) (by linarith) (by norm_num)
  · exact rpow_gamma_le (b := 0.96193977) (by linarith) (by linarith) (by norm_num) (by norm_num)

end

theorem mul_bounds {x y a b c d : ℝ} (ha : 0 ≤ a) (hx : a ≤ x ∧ x ≤ b) (hc : 0 ≤ c) (hy : c ≤ y ∧ y ≤ d) :
    a * c ≤ x * y ∧ x * y ≤ b * d :=
  ⟨mul_le_mul hx.1 hy.1 hc (ha.trans hx.1), mul_le_mul hx.2 hy.2 (hc.trans hy.1) (ha.trans (hx.1.trans hx.2))⟩

/-- Settles O33: bounds on the nodes give bounds on the samples, those give bounds on the coefficients. -/
theorem referenceTableRoundsFit : Obligations.ReferenceTableRoundsFit := by
  intro u hu
  obtain ⟨p, q, r, hn, rfl⟩ := exists_nodeRelations hu
  rw [fit_eq_nodeCoef hn]
  obtain ⟨⟨hy1, hy1'⟩, ⟨hy2, hy2'⟩, ⟨hy3, hy3'⟩, ⟨hy4, hy4'⟩⟩ := gamma_sample_bounds hn
  simp only [nodeCoef, Four.map, Config.referenceCoef, abs_lt]
  generalize nodeToDomain 0 1 (-p) ^ (Config.gamma : ℝ) = y1 at *
  generalize nodeToDomain 0 1 (-q) ^ (Config.gamma : ℝ) = y2 at *
  generalize nodeToDomain 0 1 q ^ (Config.gamma : ℝ) = y3 at *
  generalize nodeToDomain 0 1 p ^ (Config.gamma : ℝ) = y4 at *
  have houter : 0.8969385 ≤ y4 - y1 ∧ y4 - y1 ≤ 0.8969387 := ⟨by linarith, by linarith⟩
  have hinner : 0.318546 ≤ y3 - y2 ∧ y3 - y2 ≤ 0.3185463 := ⟨by linarith, by linarith⟩
  have hbend : 0.5042051 ≤ y1 - y2 - y3 + y4 ∧ y1 - y2 - y3 + y4 ≤ 0.5042056 := ⟨by linarith, by linarith⟩
  have hpo := mul_bounds (by norm_num) (p_bounds hn) (by norm_num) houter
  have hpi := mul_bounds (by norm_num) (p_bounds hn) (by norm_num) hinner
  have hqo := mul_bounds (by norm_num) (q_bounds hn) (by norm_num) houter
  have hqi := mul_bounds (by norm_num) (q_bounds hn) (by norm_num) hinner
  have hrb := mul_bounds (by norm_num) (r_bounds hn) (by norm_num) hbend
  norm_num at hpo hpi hqo hqi hrb ⊢
  refine ⟨⟨?_, ?_⟩, ⟨?_, ?_⟩, ⟨?_, ?_⟩, ?_, ?_⟩ <;> linarith

end Sys2Proof.Machine
end
